-- ==== Sys2Proof/Word.lean ====
section
/-! DEFINITION. The word types of the engine (spec/00_scope.md R8, R9; spec/20_memory.md R61).

A byte string of a FIXED length n (a data register, a key, a signature) is a bit vector of 8*n bits whose
MOST significant byte is byte 0 of the string, so that a literal reads as the spec prints it: the 8-byte string
`0123456789ABCDEF` of R8 is `0x0123456789ABCDEF#64`, and DES bit 1 of R110 is the most significant bit.
A byte string of a VARIABLE length (a buffer in MEM, the serialized table) is a list of bytes, byte 0 first. -/

namespace Sys2Proof

/-- One byte, an unsigned value 0 to 255 (R8). -/
abbrev Byte := BitVec 8

/-- A 32-bit number: a command word, an operand register, a status register (R22, R34, R90). -/
abbrev Word := BitVec 32

/-- An 8-byte string: a cipher block, a sub-key, an IV, a signature, a digest (R7 `BLOCK`, `SUBKEY`, `SIG_BYTES`). -/
abbrev Block := BitVec 64

/-- A byte string of any length, byte 0 first (R8). -/
abbrev Bytes := List Byte

end Sys2Proof
end

