-- ==== Sys2Proof/Config.lean ====
section
/-! DEFINITION. What an implementation of the engine fixes (spec/00_scope.md R7): the constants the spec states,
and the two open parameters a model takes as arguments, `MEM_SIZE` and `CONTENT_K3`. The third open parameter,
`HOST_BUS`, is not modelled (R7; spec/92_eei_decisions.md D2, D40). -/

namespace Sys2Proof

/-- The two open parameters of one engine instance (R7, R45): arguments of the step function, not state the
engine changes. The bound of `memSize` is R7's `0 <= MEM_SIZE <= 2^32`. -/
structure Params where
  /-- `MEM_SIZE`, the bytes of data memory (R43). -/
  memSize   : Fin 4294967297
  /-- `CONTENT_K3`, the third sub-key of the content cipher for selector 3 (R221). -/
  contentK3 : Block
deriving DecidableEq, Repr, Inhabited

/-- The identity of the hardware (spec/00_scope.md R2). -/
structure Identity where
  /-- The name a model records. -/
  name     : String
  /-- The repository whose specification the source is. -/
  origin   : String
  /-- The revision of the source document; none where it carries none. -/
  revision : Option String
  /-- The vendor; none where the source names none. -/
  vendor   : Option String
deriving DecidableEq, Repr

namespace Config

/-- "The identity a model should record" (R2): the source document's revision is unstated, and there is no vendor. -/
def identity : Identity :=
  { name := "kelftool CORE crypto engine", origin := "xfwcfw/kelftool", revision := none, vendor := none }

/-- `BLOCK`: the cipher block size in bytes (R7). -/
def block : Nat := 8

/-- `HDR_BYTES`: the header size (R7, R36). -/
def hdrBytes : Nat := 32

/-- `MAX_BLOCKS`: the most block descriptors (R7, R40). -/
def maxBlocks : Nat := 256

/-- `TBL_BYTES`: the size of the table memory (R7, R38). -/
def tblBytes : Nat := 4104

/-- `LOAD_FIXED_BYTES`: the container bytes before the table plus the two signatures after it (R7, R196). -/
def loadFixedBytes : Nat := 88

/-- The parameters of the engine that `State.reset` describes. A FREE VALUE: the spec leaves both parameters open
("A model keeps `CONTENT_K3` as a parameter and must not fix it", R221), so the constant has no body and no proof
can see what it is. Assumption log 2. -/
opaque instanceParams : Params

end Config

end Sys2Proof
end

