-- ==== Sys2Proof/Syntax.lean ====
section
/-! DEFINITION. The commands of the engine (spec/30_encoding.md R94, one constructor per row of
spec/opcode_table.json), its register names (spec/10_state.md R35) and the host transactions that are its only
interface (spec/46_management.md R230 to R238, R242). -/

namespace Sys2Proof

/-- The 27 commands (R94). `KN` is the only immediate (R92), and only `CBC_ENC` and `CBC_DEC` carry it; every other
operand is implicit (R93). -/
inductive Instr where
  | nop                    -- NOP          0x00  R239
  | ksLock                 -- KS_LOCK      0x01  R241
  | clear                  -- CLEAR        0x02  R240
  | cbcEnc (kn : Nat)      -- CBC_ENC      0x10  R137
  | cbcDec (kn : Nat)      -- CBC_DEC      0x11  R138
  | xorBuf                 -- XOR_BUF      0x12  R140
  | fold8                  -- FOLD8        0x13  R141
  | deriveKek              -- DERIVE_KEK   0x20  R154
  | unwrapKeys             -- UNWRAP_KEYS  0x21  R155
  | wrapKeys               -- WRAP_KEYS    0x22  R156
  | mac3                   -- MAC3         0x30  R170
  | foldSig                -- FOLDSIG      0x31  R171
  | sigHeader              -- SIG_HEADER   0x32  R172
  | sigTable               -- SIG_TABLE    0x33  R173
  | sigRoot                -- SIG_ROOT     0x34  R174
  | sigBlock               -- SIG_BLOCK    0x35  R175
  | signBlocks             -- SIGN_BLOCKS  0x36  R176
  | ldHeader               -- LD_HEADER    0x40  R191
  | ldKeys                 -- LD_KEYS      0x41  R192
  | ldTable                -- LD_TABLE     0x42  R193
  | ldContent              -- LD_CONTENT   0x43  R194
  | ldVerify               -- LD_VERIFY    0x44  R195
  | svSeal                 -- SV_SEAL      0x48  R198
  | tableDec               -- TABLE_DEC    0x50  R216
  | tableEnc               -- TABLE_ENC    0x51  R217
  | contentDec             -- CONTENT_DEC  0x52  R219
  | contentEnc             -- CONTENT_ENC  0x53  R220
deriving DecidableEq, Repr

/-- The eleven data registers (R29), in the order of their valid bits. -/
inductive DataReg where
  | hdr | hsig | kbit | kc | kek | tsig | rsig | sig | dig | ckey | civ
deriving DecidableEq, Repr

/-- The ten secrets of the key store (R31), in slot order. -/
inductive Slot where
  | sigMaster | sigHash | kbitMaster | kbitIv | kcMaster | kcIv | rootMaster | rootHash | tableIv | contentIv
deriving DecidableEq, Repr

/-- The registers a host names (R35): the 32-bit ones, the data registers, the key-store slots. -/
inductive Reg where
  | cmd | status | err | errinfo | valid | kspresent | contbase
  | a (i : Fin 4)
  | data (r : DataReg)
  | slot (k : Slot)
deriving DecidableEq, Repr

/-- A host transaction (R230), or the reset event (R242). `HostWriteReg` of R233 takes a byte string for a data
register and a number for a 32-bit register; the script notation of R100 writes the two forms `WR` and `SET`, and so
does this type (assumption log 5). Registers and slots are named by their numbers (R31, R35). -/
inductive Transaction where
  /-- `HostCommand(w)` (R231). -/
  | command (w : Word)
  /-- `HostWriteKey(slot, v)` (R232); script `KEY`. -/
  | writeKey (slot : Nat) (v : Bytes)
  /-- `HostWriteReg(reg, v)` with a byte string (R233); script `WR`. -/
  | writeReg (reg : Nat) (v : Bytes)
  /-- `HostWriteReg(reg, v)` with a number (R233); script `SET`. -/
  | setReg (reg : Nat) (v : Nat)
  /-- `HostReadReg(reg)` (R234); script `RD`. -/
  | readReg (reg : Nat)
  /-- `HostWriteTbl(off, v)` (R235); script `WRT`. -/
  | writeTbl (off : Nat) (v : Bytes)
  /-- `HostReadTbl(off, n)` (R236); script `RDT`. -/
  | readTbl (off n : Nat)
  /-- `HostWriteMem(addr, v)` (R237); script `WRM`. -/
  | writeMem (addr : Nat) (v : Bytes)
  /-- `HostReadMem(addr, n)` (R238); script `RDM`. -/
  | readMem (addr n : Nat)
  /-- Reset (R242); script `RESET`. The contents MEM has after it are a free input of the reset (R46, U13 of
  spec/93_implementation_defined.md): the cells listed here, and the unlisted byte elsewhere. -/
  | reset (contents : List Host.Cell)
deriving DecidableEq, Repr

end Sys2Proof
end

