-- ==== Sys2Proof/WellFormed.lean ====
section
/-! DEFINITION. Which instructions and which host transactions are well formed: the key count immediate fits its
3-bit field (spec/30_encoding.md R90, R99); a register or slot number is one the register map lists, and a written
byte string has the register's length (spec/10_state.md R31, R35; spec/46_management.md R232, R233: "A write of the
wrong length is not a transaction (the host's bus adapter cannot form it)"). -/

namespace Sys2Proof

/-- The valid-bit number of a data register (R29); bit 11 is `TBL`'s (R28). -/
def DataReg.index : DataReg → Nat
  | .hdr => 0 | .hsig => 1 | .kbit => 2 | .kc => 3 | .kek => 4 | .tsig => 5
  | .rsig => 6 | .sig => 7 | .dig => 8 | .ckey => 9 | .civ => 10

/-- The length in bytes of a data register (R29). -/
def DataReg.bytes : DataReg → Nat
  | .hdr => 32 | .hsig => 8 | .kbit => 16 | .kc => 16 | .kek => 16 | .tsig => 8
  | .rsig => 8 | .sig => 8 | .dig => 8 | .ckey => 24 | .civ => 8

/-- The slot number of a secret (R31). -/
def Slot.index : Slot → Nat
  | .sigMaster => 0 | .sigHash => 1 | .kbitMaster => 2 | .kbitIv => 3 | .kcMaster => 4
  | .kcIv => 5 | .rootMaster => 6 | .rootHash => 7 | .tableIv => 8 | .contentIv => 9

/-- The length in bytes of a secret (R31). -/
def Slot.bytes : Slot → Nat
  | .sigMaster => 8 | .sigHash => 8 | .kbitMaster => 16 | .kbitIv => 8 | .kcMaster => 16
  | .kcIv => 8 | .rootMaster => 8 | .rootHash => 16 | .tableIv => 8 | .contentIv => 8

/-- The secret with a slot number, if there is one (R31). -/
def Slot.ofIndex (n : Nat) : Option Slot :=
  [Slot.sigMaster, .sigHash, .kbitMaster, .kbitIv, .kcMaster, .kcIv, .rootMaster, .rootHash, .tableIv, .contentIv][n]?

/-- The register number (R35). -/
def Reg.number : Reg → Nat
  | .cmd => 0x00 | .status => 0x01 | .err => 0x02 | .errinfo => 0x03 | .valid => 0x04 | .kspresent => 0x05
  | .contbase => 0x06
  | .a i => 0x08 + i.val
  | .data r => 0x10 + r.index
  | .slot k => 0x20 + k.index

/-- Every register of the map (R35). -/
def Reg.all : List Reg :=
  [.cmd, .status, .err, .errinfo, .valid, .kspresent, .contbase, .a 0, .a 1, .a 2, .a 3,
   .data .hdr, .data .hsig, .data .kbit, .data .kc, .data .kek, .data .tsig, .data .rsig, .data .sig, .data .dig,
   .data .ckey, .data .civ,
   .slot .sigMaster, .slot .sigHash, .slot .kbitMaster, .slot .kbitIv, .slot .kcMaster, .slot .kcIv,
   .slot .rootMaster, .slot .rootHash, .slot .tableIv, .slot .contentIv]

/-- The register with a number; an unlisted number names no register (R35). -/
def Reg.ofNumber (n : Nat) : Option Reg :=
  Reg.all.find? fun r => r.number == n

/-- An instruction is well formed when its key count fits the 3-bit field `KN` (R90, R92, R99). -/
def Instr.wf : Instr → Bool
  | .cbcEnc kn => decide (kn < 8)
  | .cbcDec kn => decide (kn < 8)
  | .nop => true | .ksLock => true | .clear => true | .xorBuf => true | .fold8 => true | .deriveKek => true
  | .unwrapKeys => true | .wrapKeys => true | .mac3 => true | .foldSig => true | .sigHeader => true
  | .sigTable => true | .sigRoot => true | .sigBlock => true | .signBlocks => true | .ldHeader => true
  | .ldKeys => true | .ldTable => true | .ldContent => true | .ldVerify => true | .svSeal => true
  | .tableDec => true | .tableEnc => true | .contentDec => true | .contentEnc => true

/-- Whether a byte string may be written to a register (R233): a host-writable data register takes its own length,
a slot its own (R232), a read-only register anything (the write is ignored), a 32-bit register no byte string. -/
def Reg.takesBytes (n : Nat) : Reg → Bool
  | .data .sig => true
  | .data r => r.bytes == n
  | .slot k => k.bytes == n
  | .status => true | .err => true | .errinfo => true | .valid => true | .kspresent => true
  | .cmd => false | .contbase => false | .a _ => false

/-- Whether a number may be written to a register (R233): the 32-bit registers, `CMD`, and the read-only ones
(ignored); a data register or a slot takes a byte string. -/
def Reg.takesNumber : Reg → Bool
  | .data .sig => true
  | .data _ => false
  | .slot _ => false
  | .status => true | .err => true | .errinfo => true | .valid => true | .kspresent => true
  | .cmd => true | .contbase => true | .a _ => true

/-- Whether a register can be read (R234): every one but the key-store slots (R33). -/
def Reg.readable : Reg → Bool
  | .slot _ => false
  | .data _ => true | .a _ => true
  | .cmd => true | .status => true | .err => true | .errinfo => true | .valid => true | .kspresent => true
  | .contbase => true

/-- Whether a value is a transaction of R230 at all; what is not is refused by the step. -/
def Transaction.wf : Transaction → Bool
  | .command _ => true
  | .writeKey slot v => ((Slot.ofIndex slot).map fun k => k.bytes == v.length).getD false
  | .writeReg reg v => ((Reg.ofNumber reg).map fun r => r.takesBytes v.length).getD false
  | .setReg reg _ => ((Reg.ofNumber reg).map Reg.takesNumber).getD false
  | .readReg reg => ((Reg.ofNumber reg).map Reg.readable).getD false
  | .writeTbl _ _ => true
  | .readTbl _ _ => true
  | .writeMem _ _ => true
  | .readMem _ _ => true
  | .reset _ => true

end Sys2Proof
end

