-- ==== Sys2Proof/Decode.lean ====
section
/-! DEFINITION. The decoder of the 32-bit command word (spec/30_encoding.md R90 to R99), total on every word, and the
encoder, both written from the opcode map of R94. -/

namespace Sys2Proof

/-- Why a word is illegal (R95). All three raise `IllegalCommand(w)` (R96). -/
inductive DecodeError where
  /-- `Z`, bits 31 to 11, is not zero. -/
  | reservedBits
  /-- `OP` is not in the map of R94. -/
  | unknownOpcode
  /-- `KN` is not zero and the command is neither `CBC_ENC` nor `CBC_DEC`. -/
  | keyCountNotAllowed
deriving DecidableEq, Repr

/-- `OP = w[7:0]` (R91). -/
def wordOp (w : Word) : Nat := w.toNat % 256

/-- `KN = w[10:8]` (R91). -/
def wordKn (w : Word) : Nat := w.toNat / 256 % 8

/-- `Z = w[31:11]` (R91). -/
def wordZ (w : Word) : Nat := w.toNat / 2048

/-- The opcode of a command (R94). -/
def opcode : Instr → Nat
  | .nop => 0x00
  | .ksLock => 0x01
  | .clear => 0x02
  | .cbcEnc _ => 0x10
  | .cbcDec _ => 0x11
  | .xorBuf => 0x12
  | .fold8 => 0x13
  | .deriveKek => 0x20
  | .unwrapKeys => 0x21
  | .wrapKeys => 0x22
  | .mac3 => 0x30
  | .foldSig => 0x31
  | .sigHeader => 0x32
  | .sigTable => 0x33
  | .sigRoot => 0x34
  | .sigBlock => 0x35
  | .signBlocks => 0x36
  | .ldHeader => 0x40
  | .ldKeys => 0x41
  | .ldTable => 0x42
  | .ldContent => 0x43
  | .ldVerify => 0x44
  | .svSeal => 0x48
  | .tableDec => 0x50
  | .tableEnc => 0x51
  | .contentDec => 0x52
  | .contentEnc => 0x53

/-- The key count field of a command: zero for every command that carries none (R94). -/
def keyCountField : Instr → Nat
  | .cbcEnc kn => kn
  | .cbcDec kn => kn
  | _ => 0

/-- The command an opcode selects (R94), given the word's `KN`; none where the map has no such opcode. -/
def opcodeInstr (op kn : Nat) : Option Instr :=
  match op with
  | 0x00 => some .nop
  | 0x01 => some .ksLock
  | 0x02 => some .clear
  | 0x10 => some (.cbcEnc kn)
  | 0x11 => some (.cbcDec kn)
  | 0x12 => some .xorBuf
  | 0x13 => some .fold8
  | 0x20 => some .deriveKek
  | 0x21 => some .unwrapKeys
  | 0x22 => some .wrapKeys
  | 0x30 => some .mac3
  | 0x31 => some .foldSig
  | 0x32 => some .sigHeader
  | 0x33 => some .sigTable
  | 0x34 => some .sigRoot
  | 0x35 => some .sigBlock
  | 0x36 => some .signBlocks
  | 0x40 => some .ldHeader
  | 0x41 => some .ldKeys
  | 0x42 => some .ldTable
  | 0x43 => some .ldContent
  | 0x44 => some .ldVerify
  | 0x48 => some .svSeal
  | 0x50 => some .tableDec
  | 0x51 => some .tableEnc
  | 0x52 => some .contentDec
  | 0x53 => some .contentEnc
  | _ => none

/-- The decoder (R95): no state takes part in it. -/
def decode (w : Word) : Except DecodeError Instr :=
  if wordZ w ≠ 0 then .error .reservedBits
  else match opcodeInstr (wordOp w) (wordKn w) with
    | none => .error .unknownOpcode
    | some i =>
      if wordKn w ≠ 0 ∧ wordOp w ≠ 0x10 ∧ wordOp w ≠ 0x11 then .error .keyCountNotAllowed
      else .ok i

/-- The word of an instruction: `OP + 256 * KN` (R90, R100). -/
def encode (i : Instr) : Word := BitVec.ofNat 32 (opcode i + 256 * keyCountField i)

/-- The instruction the decoder reads from a word of the opcode table: a command is one 32-bit word (R98), the bits
above `nbits` are zero. -/
def decodeTableWord (nbits w : Nat) : Option Instr :=
  match decode (BitVec.ofNat 32 (w % 2 ^ nbits)) with
  | .ok i => some i
  | .error _ => none

end Sys2Proof
end

