-- ==== Sys2Proof/Machine/Des.lean ====
section
/-! DEFINITION. The DES block function (spec/40_des_block.md R110 to R119): the pure functions `desEnc` and `desDec` from
an 8-byte key and an 8-byte block to an 8-byte block. -/

namespace Sys2Proof.Machine

open Sys2Proof

/-- Bit `j` of a string of `n` bits, numbered 1 to `n` with bit 1 the most significant (R110). -/
def desBit {n : Nat} (x : BitVec n) (j : Nat) : Bool := x.getLsbD (n - j)

/-- The number whose binary digits, after those of `acc`, are the listed bits, first bit leftmost. -/
def packBits : List Bool → Nat → Nat
  | [], acc => acc
  | b :: bs, acc => packBits bs (2 * acc + b.toNat)

/-- A permutation table applied to a bit string: output bit i is input bit `T[i]` (R110). -/
def permute {n : Nat} (m : Nat) (t : List Nat) (x : BitVec n) : BitVec m :=
  BitVec.ofNat m (packBits (t.map (desBit x)) 0)

/-- `IP` (R111). -/
def tableIP : List Nat :=
  [58, 50, 42, 34, 26, 18, 10,  2,
   60, 52, 44, 36, 28, 20, 12,  4,
   62, 54, 46, 38, 30, 22, 14,  6,
   64, 56, 48, 40, 32, 24, 16,  8,
   57, 49, 41, 33, 25, 17,  9,  1,
   59, 51, 43, 35, 27, 19, 11,  3,
   61, 53, 45, 37, 29, 21, 13,  5,
   63, 55, 47, 39, 31, 23, 15,  7]

/-- `FP` (R112). -/
def tableFP : List Nat :=
  [40,  8, 48, 16, 56, 24, 64, 32,
   39,  7, 47, 15, 55, 23, 63, 31,
   38,  6, 46, 14, 54, 22, 62, 30,
   37,  5, 45, 13, 53, 21, 61, 29,
   36,  4, 44, 12, 52, 20, 60, 28,
   35,  3, 43, 11, 51, 19, 59, 27,
   34,  2, 42, 10, 50, 18, 58, 26,
   33,  1, 41,  9, 49, 17, 57, 25]

/-- `E` (R113). -/
def tableE : List Nat :=
  [32,  1,  2,  3,  4,  5,
    4,  5,  6,  7,  8,  9,
    8,  9, 10, 11, 12, 13,
   12, 13, 14, 15, 16, 17,
   16, 17, 18, 19, 20, 21,
   20, 21, 22, 23, 24, 25,
   24, 25, 26, 27, 28, 29,
   28, 29, 30, 31, 32,  1]

/-- `P` (R114). -/
def tableP : List Nat :=
  [16,  7, 20, 21, 29, 12, 28, 17,
    1, 15, 23, 26,  5, 18, 31, 10,
    2,  8, 24, 14, 32, 27,  3,  9,
   19, 13, 30,  6, 22, 11,  4, 25]

/-- `S1` (R115). -/
def sbox1 : List Nat :=
  [14,  4, 13,  1,  2, 15, 11,  8,  3, 10,  6, 12,  5,  9,  0,  7,
    0, 15,  7,  4, 14,  2, 13,  1, 10,  6, 12, 11,  9,  5,  3,  8,
    4,  1, 14,  8, 13,  6,  2, 11, 15, 12,  9,  7,  3, 10,  5,  0,
   15, 12,  8,  2,  4,  9,  1,  7,  5, 11,  3, 14, 10,  0,  6, 13]

/-- `S2` (R115). -/
def sbox2 : List Nat :=
  [15,  1,  8, 14,  6, 11,  3,  4,  9,  7,  2, 13, 12,  0,  5, 10,
    3, 13,  4,  7, 15,  2,  8, 14, 12,  0,  1, 10,  6,  9, 11,  5,
    0, 14,  7, 11, 10,  4, 13,  1,  5,  8, 12,  6,  9,  3,  2, 15,
   13,  8, 10,  1,  3, 15,  4,  2, 11,  6,  7, 12,  0,  5, 14,  9]

/-- `S3` (R115). -/
def sbox3 : List Nat :=
  [10,  0,  9, 14,  6,  3, 15,  5,  1, 13, 12,  7, 11,  4,  2,  8,
   13,  7,  0,  9,  3,  4,  6, 10,  2,  8,  5, 14, 12, 11, 15,  1,
   13,  6,  4,  9,  8, 15,  3,  0, 11,  1,  2, 12,  5, 10, 14,  7,
    1, 10, 13,  0,  6,  9,  8,  7,  4, 15, 14,  3, 11,  5,  2, 12]

/-- `S4` (R115). -/
def sbox4 : List Nat :=
  [ 7, 13, 14,  3,  0,  6,  9, 10,  1,  2,  8,  5, 11, 12,  4, 15,
   13,  8, 11,  5,  6, 15,  0,  3,  4,  7,  2, 12,  1, 10, 14,  9,
   10,  6,  9,  0, 12, 11,  7, 13, 15,  1,  3, 14,  5,  2,  8,  4,
    3, 15,  0,  6, 10,  1, 13,  8,  9,  4,  5, 11, 12,  7,  2, 14]

/-- `S5` (R115). -/
def sbox5 : List Nat :=
  [ 2, 12,  4,  1,  7, 10, 11,  6,  8,  5,  3, 15, 13,  0, 14,  9,
   14, 11,  2, 12,  4,  7, 13,  1,  5,  0, 15, 10,  3,  9,  8,  6,
    4,  2,  1, 11, 10, 13,  7,  8, 15,  9, 12,  5,  6,  3,  0, 14,
   11,  8, 12,  7,  1, 14,  2, 13,  6, 15,  0,  9, 10,  4,  5,  3]

/-- `S6` (R115). -/
def sbox6 : List Nat :=
  [12,  1, 10, 15,  9,  2,  6,  8,  0, 13,  3,  4, 14,  7,  5, 11,
   10, 15,  4,  2,  7, 12,  9,  5,  6,  1, 13, 14,  0, 11,  3,  8,
    9, 14, 15,  5,  2,  8, 12,  3,  7,  0,  4, 10,  1, 13, 11,  6,
    4,  3,  2, 12,  9,  5, 15, 10, 11, 14,  1,  7,  6,  0,  8, 13]

/-- `S7` (R115). -/
def sbox7 : List Nat :=
  [ 4, 11,  2, 14, 15,  0,  8, 13,  3, 12,  9,  7,  5, 10,  6,  1,
   13,  0, 11,  7,  4,  9,  1, 10, 14,  3,  5, 12,  2, 15,  8,  6,
    1,  4, 11, 13, 12,  3,  7, 14, 10, 15,  6,  8,  0,  5,  9,  2,
    6, 11, 13,  8,  1,  4, 10,  7,  9,  5,  0, 15, 14,  2,  3, 12]

/-- `S8` (R115). -/
def sbox8 : List Nat :=
  [13,  2,  8,  4,  6, 15, 11,  1, 10,  9,  3, 14,  5,  0, 12,  7,
    1, 15, 13,  8, 10,  3,  7,  4, 12,  5,  6, 11,  0, 14,  9,  2,
    7, 11,  4,  1,  9, 12, 14,  2,  0,  6, 10, 13, 15,  3,  5,  8,
    2,  1, 14,  7,  4, 10,  8, 13, 15, 12,  9,  0,  3,  5,  6, 11]

/-- One S-box on the six bits of `x` that start at bit `j`: row `b1 b6`, column `b2 b3 b4 b5` (R115). -/
def sboxAt (t : List Nat) (x : BitVec 48) (j : Nat) : Nat :=
  t.getD (16 * packBits [desBit x j, desBit x (j + 5)] 0 +
    packBits [desBit x (j + 1), desBit x (j + 2), desBit x (j + 3), desBit x (j + 4)] 0) 0

/-- The eight S-boxes on the eight 6-bit groups, `S1`'s output first (R116). -/
def substitute (x : BitVec 48) : BitVec 32 :=
  BitVec.ofNat 4 (sboxAt sbox1 x 1) ++ BitVec.ofNat 4 (sboxAt sbox2 x 7) ++
  BitVec.ofNat 4 (sboxAt sbox3 x 13) ++ BitVec.ofNat 4 (sboxAt sbox4 x 19) ++
  BitVec.ofNat 4 (sboxAt sbox5 x 25) ++ BitVec.ofNat 4 (sboxAt sbox6 x 31) ++
  BitVec.ofNat 4 (sboxAt sbox7 x 37) ++ BitVec.ofNat 4 (sboxAt sbox8 x 43)

/-- The round function `f(R, K)` (R116). -/
def roundF (r : BitVec 32) (k : BitVec 48) : BitVec 32 :=
  permute 32 tableP (substitute (permute 48 tableE r ^^^ k))

/-- `PC1` (R117). -/
def tablePC1 : List Nat :=
  [57, 49, 41, 33, 25, 17,  9,
    1, 58, 50, 42, 34, 26, 18,
   10,  2, 59, 51, 43, 35, 27,
   19, 11,  3, 60, 52, 44, 36,
   63, 55, 47, 39, 31, 23, 15,
    7, 62, 54, 46, 38, 30, 22,
   14,  6, 61, 53, 45, 37, 29,
   21, 13,  5, 28, 20, 12,  4]

/-- `PC2` (R117). -/
def tablePC2 : List Nat :=
  [14, 17, 11, 24,  1,  5,
    3, 28, 15,  6, 21, 10,
   23, 19, 12,  4, 26,  8,
   16,  7, 27, 20, 13,  2,
   41, 52, 31, 37, 47, 55,
   30, 40, 51, 45, 33, 48,
   44, 49, 39, 56, 34, 53,
   46, 42, 50, 36, 29, 32]

/-- `SHIFT[1..16]` (R117). -/
def tableShift : List Nat := [1, 1, 2, 2, 2, 2, 2, 2, 1, 2, 2, 2, 2, 2, 2, 1]

/-- The round keys that follow from the halves `C(n-1)`, `D(n-1)` and the shifts still to come (R117). -/
def scheduleFrom : List Nat → BitVec 28 → BitVec 28 → List (BitVec 48)
  | [], _, _ => []
  | n :: ns, c, d =>
    permute 48 tablePC2 (c.rotateLeft n ++ d.rotateLeft n) :: scheduleFrom ns (c.rotateLeft n) (d.rotateLeft n)

/-- The sixteen round keys `K1` to `K16` of an 8-byte key (R117). The least significant bit of every key byte does not
enter them (R121). -/
def roundKeys (k : Block) : List (BitVec 48) :=
  scheduleFrom tableShift ((permute 56 tablePC1 k).extractLsb' 28 28) ((permute 56 tablePC1 k).extractLsb' 0 28)

/-- The rounds on the halves `L`, `R`, one per round key, in order (R118, R119). -/
def rounds : List (BitVec 48) → BitVec 32 → BitVec 32 → BitVec 32 × BitVec 32
  | [], l, r => (l, r)
  | k :: ks, l, r => rounds ks r (l ^^^ roundF r k)

/-- The block computation with a list of round keys: `IP`, the rounds, the halves swapped, `FP` (R118, R119). -/
def desWith (ks : List (BitVec 48)) (b : Block) : Block :=
  let lr := permute 64 tableIP b
  let out := rounds ks (lr.extractLsb' 32 32) (lr.extractLsb' 0 32)
  permute 64 tableFP (out.2 ++ out.1)

/-- `DesEnc(K, B)` (R118). -/
def desEnc (k b : Block) : Block := desWith (roundKeys k) b

/-- `DesDec(K, B)`: the round keys in the opposite order (R119). -/
def desDec (k b : Block) : Block := desWith (roundKeys k).reverse b

end Sys2Proof.Machine
end

