-- ==== Sys2Proof/Machine/State.lean ====
section
/-! DEFINITION. The state of the engine as plain data: everything spec/10_state.md R21 names ("The whole architectural
state of one engine is the tuple below"), the two open parameters of the instance (R45), and the model's own two
fields that stand for the host's side of the interface. -/

namespace Sys2Proof.Machine

open Sys2Proof

/-- The load state `PHASE` (R24). The value 6 "is never held", so it has no constructor. -/
inductive Phase where
  | unloaded | headerRead | keysUnwrapped | tableVerified | contentDecrypted | verified | rejected
deriving DecidableEq, Repr

/-- The fifteen errors of the engine (spec/60_exceptions.md R256). Taking one is `takeError` in Machine/Ops.lean: a next
state, in `Rejected`. -/
inductive EngineError where
  | invalidKeyCount | unsupportedVariant | invalidHeaderSignature | invalidBitTableSignature | invalidRootSignature
  | invalidContentSignature | invalidBitTableSize | incompleteKeyStore
  /-- Reserved for the host's key-file parser: "never by the engine" (R243, R256). -/
  | malformedEntry
  | illegalCommand | sequenceError | operandInvalid | lengthError | accessFault | keyStoreLocked
deriving DecidableEq, Repr

/-- The key store's ten secrets, with the lengths of R31: 104 bytes in all, where R21 says 112 bytes; the model follows
the ten lengths: DEDUCED, assumption log 15. -/
structure KeyStore where
  sigMaster  : Block
  sigHash    : Block
  kbitMaster : BitVec 128
  kbitIv     : Block
  kcMaster   : BitVec 128
  kcIv       : Block
  rootMaster : Block
  rootHash   : BitVec 128
  tableIv    : Block
  contentIv  : Block
deriving DecidableEq, Repr

/-- A byte-addressed memory as the list of the bytes that differ from what an unlisted address reads as, addresses
strictly rising (`Memory.wf` in Machine/Ops.lean). Both `MEM` (R43) and `TBL` (R38) are held so. -/
abbrev Memory := List Host.Cell

/-- What a read transaction returns to the host (spec/46_management.md R234, R236, R238). -/
inductive Reply where
  /-- A 32-bit register's value. -/
  | number (v : Word)
  /-- The bytes of a data register, of `TBL` or of MEM. -/
  | bytes (v : Bytes)
deriving DecidableEq, Repr

/-- The engine has no fault that stops it: every failing check is one of the fifteen errors of R256, which the engine
takes and goes on from, in `Rejected` (R258, R262). So this type has no constructor. -/
inductive Fault where
deriving DecidableEq, Repr

/-- Why the model gives no meaning. -/
inductive Refusal where
  /-- Raised by an arm of `exec` whose instruction has no meaning yet (none in this model). Safe. -/
  | notModelled (mnemonic : String)
  /-- Raised by `step` when the next host input is none of the transactions of R230: an unlisted register or slot
  number (R35: "there is no transaction on them"), a byte string of the wrong length (R232: "not a transaction (the
  host's bus adapter cannot form it)"), a read of a key-store slot (R33). Safe: the hardware has no behaviour there. -/
  | notATransaction
deriving DecidableEq, Repr

/-- The state of one engine. -/
structure State where
  /-- `A[0]` to `A[3]`, the operand registers (R22). -/
  a0 : Word
  a1 : Word
  a2 : Word
  a3 : Word
  /-- `CONTBASE`, the MEM address of the content buffer (R23). -/
  contbase : Word
  /-- `PHASE`, the sequencing state (R24). -/
  phase : Phase
  /-- `ERR`, the number of the error that rejected, or 0 (R26). -/
  err : BitVec 8
  /-- `ERRINFO`, that error's detail, or 0 (R26). -/
  errinfo : Word
  /-- The eleven data registers (R29). -/
  hdr : BitVec 256
  hsig : Block
  kbit : BitVec 128
  kc : BitVec 128
  kek : BitVec 128
  tsig : Block
  rsig : Block
  sig : Block
  dig : Block
  ckey : BitVec 192
  civ : Block
  /-- `VALID`, one bit per data register and bit 11 for `TBL` (R28). -/
  valid : BitVec 12
  /-- The key store's ten secrets (R31). -/
  ks : KeyStore
  /-- `KSPRESENT`, one bit per slot (R32). -/
  kspresent : BitVec 10
  /-- `KSLOCK` (R32). -/
  kslock : Bool
  /-- `TBL`, the 4104-byte block-table memory (R38). -/
  tbl : Memory
  /-- `MEM`, the data memory (R43). -/
  mem : Memory
  /-- `MEM_SIZE` and `CONTENT_K3`, the parameters of the instance (R45): no step changes them. -/
  params : Params
  /-- The model's own: the host transactions still to come, the next one first; the input of the run (R45). -/
  inbox : List Transaction
  /-- The model's own: what the last transaction returned to the host, if it was a read (R230). -/
  reply : Option Reply
deriving DecidableEq, Repr

/-- A key store all of whose secrets are zero bytes, its value after reset (R46). -/
def KeyStore.empty : KeyStore :=
  { sigMaster := 0, sigHash := 0, kbitMaster := 0, kbitIv := 0, kcMaster := 0, kcIv := 0, rootMaster := 0,
    rootHash := 0, tableIv := 0, contentIv := 0 }

/-- The engine with parameters `p` right after a reset that left `m` in MEM (R46, R290): all registers zero and
invalid, `PHASE = Unloaded`, the key store absent and unlocked, `TBL` zero and invalid, MEM a free input. -/
def State.resetWith (p : Params) (m : Memory) : State :=
  { a0 := 0, a1 := 0, a2 := 0, a3 := 0, contbase := 0,
    phase := .unloaded, err := 0, errinfo := 0,
    hdr := 0, hsig := 0, kbit := 0, kc := 0, kek := 0, tsig := 0, rsig := 0, sig := 0, dig := 0, ckey := 0, civ := 0,
    valid := 0, ks := KeyStore.empty, kspresent := 0, kslock := false, tbl := [], mem := m,
    params := p, inbox := [], reply := none }

/-- The engine right after reset (R46): the parameters are the free constant of Config, MEM lists nothing (assumption
log 1), and no transaction is pending (assumption log 3). -/
def State.reset : State := State.resetWith Config.instanceParams []

end Sys2Proof.Machine
end

