-- ==== Sys2Proof/Machine/Ops.lean ====
section
/-! DEFINITION. The named operations over memory and state that the meanings share: byte memories in canonical form
(spec/20_memory.md R62 to R64, R69), taking an error (spec/60_exceptions.md R258), and the return from `Rejected`
(R263; spec/46_management.md R240). -/

namespace Sys2Proof.Machine

open Sys2Proof

/-- What a step or a meaning answers. -/
abbrev Result := Host.Outcome State Fault Refusal

/-! ## Byte memories -/

/-- What an address that a memory does not list reads as. For `TBL` it is the spec's value (R38, R46: zero bytes); for
MEM, whose reset contents the spec leaves unspecified (R46), it is a DESIGN CHOICE, unsafe: assumption log 1. -/
def unlistedByte : Byte := 0

/-- The byte at an address. -/
def Memory.get : Memory → Nat → Byte
  | [], _ => unlistedByte
  | c :: m, a => if c.1 = a then c.2 else Memory.get m a

/-- Writes one byte, keeping the canonical form: writing the unlisted byte removes the entry. -/
def Memory.set : Memory → Nat → Byte → Memory
  | [], a, b => if b = unlistedByte then [] else [(a, b)]
  | c :: m, a, b =>
    if a < c.1 then (if b = unlistedByte then c :: m else (a, b) :: c :: m)
    else if a = c.1 then (if b = unlistedByte then m else (a, b) :: m)
    else c :: Memory.set m a b

/-- The `n` bytes from address `a` on, lowest address first (R62, `TBL[i +: n]` of R12). The range check is the
caller's. -/
def Memory.read (m : Memory) (a n : Nat) : Bytes := (List.range n).map fun k => m.get (a + k)

/-- Writes a byte string from address `a` on (R63). The range check is the caller's. -/
def Memory.write : Memory → Nat → Bytes → Memory
  | m, _, [] => m
  | m, a, b :: bs => Memory.write (m.set a b) (a + 1) bs

/-- Whether the cells have addresses above `lo` that rise strictly, and none reads as the unlisted byte. -/
def Memory.wfAbove : Memory → Nat → Bool
  | [], _ => true
  | c :: m, lo => decide (lo ≤ c.1) && decide (c.2 ≠ unlistedByte) && Memory.wfAbove m (c.1 + 1)

/-- The canonical form: addresses strictly rising, no entry equal to what an unlisted address reads as. -/
def Memory.wf (m : Memory) : Bool := m.wfAbove 0

/-- Whether every listed address is below `size`. -/
def Memory.below (m : Memory) (size : Nat) : Bool := m.all fun c => decide (c.1 < size)

/-- The canonical memory that holds the listed cells below `size`, a later cell over an earlier one. -/
def Memory.ofCells (size : Nat) (cells : List Host.Cell) : Memory :=
  cells.foldl (fun m c => if c.1 < size then m.set c.1 c.2 else m) []

/-- The range check `addr + n <= size` on mathematical integers, never reduced modulo 2^32 (R62 to R64, R69). -/
def inRange (addr n size : Nat) : Bool :=
  match addr + n with
  | 0 => true
  | k + 1 => decide (k < size)

/-! ## Taking an error, and the return -/

/-- The number of an error, the value of `ERR` (R256). -/
def EngineError.number : EngineError → BitVec 8
  | .invalidKeyCount => 1
  | .unsupportedVariant => 2
  | .invalidHeaderSignature => 3
  | .invalidBitTableSignature => 4
  | .invalidRootSignature => 5
  | .invalidContentSignature => 6
  | .invalidBitTableSize => 7
  | .incompleteKeyStore => 8
  | .malformedEntry => 9
  | .illegalCommand => 16
  | .sequenceError => 17
  | .operandInvalid => 18
  | .lengthError => 19
  | .accessFault => 20
  | .keyStoreLocked => 21

/-- Every data register zero bytes and invalid, `TBL` zero bytes and invalid: the part that the error mechanism (R258)
and `CLEAR` (R240) share. -/
def State.zeroise (s : State) : State :=
  { s with
    hdr := 0, hsig := 0, kbit := 0, kc := 0, kek := 0, tsig := 0, rsig := 0, sig := 0, dig := 0, ckey := 0, civ := 0,
    valid := 0, tbl := [] }

/-- The error mechanism, `raise E(info)` (R258): what changes, in one atomic change. `A[0..3]`, `CONTBASE`, MEM and the
key store keep their values, and nothing else is saved. -/
def takeError (e : EngineError) (info : Word) (s : State) : State :=
  { s.zeroise with err := e.number, errinfo := info, phase := .rejected }

/-- A command or transaction that ends by raising an error: a next state, in `Rejected`. -/
def raise (e : EngineError) (info : Word) (s : State) : Result := .next (takeError e info s)

/-- The return from `Rejected` and the whole of `CLEAR` (R240, R263): a fresh instance on the same key store; the
key store and MEM keep their values. -/
def clearInstance (s : State) : State :=
  { s.zeroise with
    a0 := 0, a1 := 0, a2 := 0, a3 := 0, contbase := 0, err := 0, errinfo := 0, phase := .unloaded }

/-- The reset event (R46, R242): every piece of state at its reset value, MEM the free input `contents`; the parameters
are the instance's (R45), and the host's transactions still to come stay pending. -/
def resetEvent (contents : List Host.Cell) (s : State) : State :=
  { State.resetWith s.params (Memory.ofCells s.params.memSize.val contents) with inbox := s.inbox }

end Sys2Proof.Machine
end

