-- ==== Sys2Proof/Machine/Flags.lean ====
section
/-! DEFINITION. The flags of the engine: the valid bits (spec/10_state.md R27, R28), the key-store bits (R32), `PHASE`
(R24) and the registers assembled from them (R25), and the operand test `need(...)` (spec/60_exceptions.md R257). There
are no arithmetic condition codes (R26). -/

namespace Sys2Proof.Machine

open Sys2Proof

/-- The numeric encoding of `PHASE` (R24). -/
def Phase.code : Phase → Nat
  | .unloaded => 0
  | .headerRead => 1
  | .keysUnwrapped => 2
  | .tableVerified => 3
  | .contentDecrypted => 4
  | .verified => 5
  | .rejected => 7

/-- `PHASE` as the 32-bit detail of `SequenceError` (R256). -/
def Phase.info (p : Phase) : Word := BitVec.ofNat 32 p.code

/-- The mask with one valid bit set (R28). -/
def validBit (n : Nat) : BitVec 12 := BitVec.ofNat 12 (2 ^ n)

/-- The valid bits by name (R29), `TBL`'s being bit 11 (R28). -/
def vHdr : BitVec 12 := validBit 0
def vHsig : BitVec 12 := validBit 1
def vKbit : BitVec 12 := validBit 2
def vKc : BitVec 12 := validBit 3
def vKek : BitVec 12 := validBit 4
def vTsig : BitVec 12 := validBit 5
def vRsig : BitVec 12 := validBit 6
def vSig : BitVec 12 := validBit 7
def vDig : BitVec 12 := validBit 8
def vCkey : BitVec 12 := validBit 9
def vCiv : BitVec 12 := validBit 10
def vTbl : BitVec 12 := validBit 11

/-- `need(X1, ..., Xn)` and, with `ks`, `need(..., KS)` (R257): the mask m of the named operands that are missing; bit
31 stands for a key store that is not locked. Zero when nothing is missing. -/
def missing (names : BitVec 12) (ks : Bool) (s : State) : Word :=
  (names &&& ~~~ s.valid).setWidth 32 ||| (if ks && !s.kslock then 0x80000000 else 0)

/-- The absent slots, `(NOT KSPRESENT) AND 0x3FF` (R241). -/
def absentSlots (s : State) : Word := (~~~ s.kspresent).setWidth 32

/-- `STATUS` (R25): `PHASE` in bits 2:0, `KSLOCK` in bit 3, zero above. -/
def statusWord (s : State) : Word := BitVec.ofNat 32 (s.phase.code + 8 * s.kslock.toNat)

/-- `ERR` read as a 32-bit register: zero-extended (R26). -/
def errWord (s : State) : Word := s.err.setWidth 32

/-- `VALID` read as a 32-bit register (R28). -/
def validWord (s : State) : Word := s.valid.setWidth 32

/-- `KSPRESENT` read as a 32-bit register (R32). -/
def kspresentWord (s : State) : Word := s.kspresent.setWidth 32

end Sys2Proof.Machine
end

