-- ==== Sys2Proof/Machine/Operands.lean ====
section
/-! DEFINITION. Every operand form of the engine: byte strings and the integers in them (spec/00_scope.md R8 to R11),
the data registers and what `NAME <- v` does (spec/10_state.md R27), the header's fields (R36, R37), the block table's
fields (R39 to R42), and the key-store slots (R31). -/

namespace Sys2Proof.Machine

open Sys2Proof

/-! ## Byte strings -/

/-- The `n` bytes of a fixed-length string, byte 0 (the most significant) first (R8). -/
def bytesOf {w : Nat} (n : Nat) (x : BitVec w) : Bytes :=
  (List.range n).map fun i => x.extractLsb' (8 * (n - 1 - i)) 8

/-- The number a byte string spells with byte 0 the most significant, after the digits of `acc`. -/
def packBytes : Bytes → Nat → Nat
  | [], acc => acc
  | b :: bs, acc => packBytes bs (256 * acc + b.toNat)

/-- The fixed-length string of `w` bits with the listed bytes, byte 0 the most significant. -/
def ofBytes (w : Nat) (l : Bytes) : BitVec w := BitVec.ofNat w (packBytes l 0)

/-- `b[i +: n]` (R8). -/
def slice (b : Bytes) (i n : Nat) : Bytes := (b.drop i).take n

/-- `le16`, `le32` (R10): the number a byte string spells with byte 0 the least significant. -/
def leNat : Bytes → Nat
  | [] => 0
  | b :: bs => b.toNat + 256 * leNat bs

/-- `xor(a, b)` of two strings of equal length (R11). -/
def xorBytes (a b : Bytes) : Bytes := List.zipWith (fun x y => x ^^^ y) a b

/-- The 8-byte units of a byte string, in order (spec/00_scope.md glossary "unit"); bytes after the last whole unit, which
the length checks of every command rule out (R66), belong to none. -/
def blocksOf : Bytes → List Block
  | b0 :: b1 :: b2 :: b3 :: b4 :: b5 :: b6 :: b7 :: rest =>
    ofBytes 64 [b0, b1, b2, b3, b4, b5, b6, b7] :: blocksOf rest
  | _ => []

/-- The byte string of a sequence of 8-byte units. -/
def bytesOfBlocks : List Block → Bytes
  | [] => []
  | b :: bs => bytesOf 8 b ++ bytesOfBlocks bs

/-! ## Data registers: `NAME <- v` writes the bytes and sets the valid bit (R27) -/

def State.putHdr (v : BitVec 256) (s : State) : State := { s with hdr := v, valid := s.valid ||| vHdr }
def State.putHsig (v : Block) (s : State) : State := { s with hsig := v, valid := s.valid ||| vHsig }
def State.putKbit (v : BitVec 128) (s : State) : State := { s with kbit := v, valid := s.valid ||| vKbit }
def State.putKc (v : BitVec 128) (s : State) : State := { s with kc := v, valid := s.valid ||| vKc }
def State.putKek (v : BitVec 128) (s : State) : State := { s with kek := v, valid := s.valid ||| vKek }
def State.putTsig (v : Block) (s : State) : State := { s with tsig := v, valid := s.valid ||| vTsig }
def State.putRsig (v : Block) (s : State) : State := { s with rsig := v, valid := s.valid ||| vRsig }
def State.putSig (v : Block) (s : State) : State := { s with sig := v, valid := s.valid ||| vSig }
def State.putDig (v : Block) (s : State) : State := { s with dig := v, valid := s.valid ||| vDig }
def State.putCkey (v : BitVec 192) (s : State) : State := { s with ckey := v, valid := s.valid ||| vCkey }
def State.putCiv (v : Block) (s : State) : State := { s with civ := v, valid := s.valid ||| vCiv }

/-- The bytes of a data register (R29); zero bytes while it is invalid (R27). -/
def readData (r : DataReg) (s : State) : Bytes :=
  match r with
  | .hdr => bytesOf 32 s.hdr
  | .hsig => bytesOf 8 s.hsig
  | .kbit => bytesOf 16 s.kbit
  | .kc => bytesOf 16 s.kc
  | .kek => bytesOf 16 s.kek
  | .tsig => bytesOf 8 s.tsig
  | .rsig => bytesOf 8 s.rsig
  | .sig => bytesOf 8 s.sig
  | .dig => bytesOf 8 s.dig
  | .ckey => bytesOf 24 s.ckey
  | .civ => bytesOf 8 s.civ

/-- What a host write of a whole data register does (R233): every one but `SIG` is host writable (R29); a write of
`SIG` is ignored. -/
def writeData (r : DataReg) (v : Bytes) (s : State) : State :=
  match r with
  | .hdr => s.putHdr (ofBytes 256 v)
  | .hsig => s.putHsig (ofBytes 64 v)
  | .kbit => s.putKbit (ofBytes 128 v)
  | .kc => s.putKc (ofBytes 128 v)
  | .kek => s.putKek (ofBytes 128 v)
  | .tsig => s.putTsig (ofBytes 64 v)
  | .rsig => s.putRsig (ofBytes 64 v)
  | .sig => s
  | .dig => s.putDig (ofBytes 64 v)
  | .ckey => s.putCkey (ofBytes 192 v)
  | .civ => s.putCiv (ofBytes 64 v)

/-- An operand register by its index (R22). -/
def readA (i : Fin 4) (s : State) : Word :=
  match i with
  | 0 => s.a0
  | 1 => s.a1
  | 2 => s.a2
  | 3 => s.a3

/-- `A[i] <- v` (R12, R233). -/
def writeA (i : Fin 4) (v : Word) (s : State) : State :=
  match i with
  | 0 => { s with a0 := v }
  | 1 => { s with a1 := v }
  | 2 => { s with a2 := v }
  | 3 => { s with a3 := v }

/-- `KS[slot] <- v` (R31, R232). -/
def writeSlot (k : Slot) (v : Bytes) (ks : KeyStore) : KeyStore :=
  match k with
  | .sigMaster => { ks with sigMaster := ofBytes 64 v }
  | .sigHash => { ks with sigHash := ofBytes 64 v }
  | .kbitMaster => { ks with kbitMaster := ofBytes 128 v }
  | .kbitIv => { ks with kbitIv := ofBytes 64 v }
  | .kcMaster => { ks with kcMaster := ofBytes 128 v }
  | .kcIv => { ks with kcIv := ofBytes 64 v }
  | .rootMaster => { ks with rootMaster := ofBytes 64 v }
  | .rootHash => { ks with rootHash := ofBytes 128 v }
  | .tableIv => { ks with tableIv := ofBytes 64 v }
  | .contentIv => { ks with contentIv := ofBytes 64 v }

/-! ## The header's fields (R36, R37) -/

/-- `HeaderSize = le16(HDR[20 +: 2])`. -/
def hdrHeaderSize (h : BitVec 256) : Nat := leNat (slice (bytesOf 32 h) 20 2)

/-- `Flags = le16(HDR[24 +: 2])`. -/
def hdrFlags (h : BitVec 256) : Nat := leNat (slice (bytesOf 32 h) 24 2)

/-- `BitCount = le16(HDR[26 +: 2])`. -/
def hdrBitCount (h : BitVec 256) : Nat := leNat (slice (bytesOf 32 h) 26 2)

/-- `ContentKn = (Flags >> 4) & 3` (R37, R221). -/
def contentKn (h : BitVec 256) : Nat := hdrFlags h / 16 % 4

/-- The table byte budget `HeaderSize - 88`, a mathematical integer that may be negative (R70, R196). -/
def tableBudget (h : BitVec 256) : Int := (hdrHeaderSize h : Int) - (Config.loadFixedBytes : Int)

/-! ## The block table's fields (R39 to R42) -/

/-- `T_HEADERSIZE` (R39); no command reads it (R303). -/
def tHeaderSize (t : Memory) : Nat := leNat (t.read 0 4)

/-- `T_COUNT` (R39). -/
def tCount (t : Memory) : Nat := leNat (t.read 4 4)

/-- `D_SIZE(i)` (R39). -/
def dSize (t : Memory) (i : Nat) : Nat := leNat (t.read (8 + 16 * i) 4)

/-- `D_FLAGS(i)` (R39). -/
def dFlags (t : Memory) (i : Nat) : Nat := leNat (t.read (12 + 16 * i) 4)

/-- `D_SIG(i)` (R39). -/
def dSig (t : Memory) (i : Nat) : Block := ofBytes 64 (t.read (16 + 16 * i) 8)

/-- `ENC(i)`: bit 0 of the descriptor's flags (R42). -/
def isEncrypted (t : Memory) (i : Nat) : Bool := dFlags t i % 2 == 1

/-- `SGN(i)`: bit 1 of the descriptor's flags (R42). -/
def isSigned (t : Memory) (i : Nat) : Bool := dFlags t i / 2 % 2 == 1

/-- `(count*2+1)*8`: the bytes of a table of `count` descriptors (R40). -/
def tableBytesOf (count : Nat) : Nat := (count * 2 + 1) * Config.block

/-- `TableBytes` (R40). -/
def tableBytes (t : Memory) : Nat := tableBytesOf (tCount t)

/-- `Offset(i)`, not reduced modulo 2^32 (R41). -/
def blockOffset (t : Memory) (i : Nat) : Nat := ((List.range i).map (dSize t)).sum

/-- `TotalSize = Offset(T_COUNT)` (R41). -/
def totalSize (t : Memory) : Nat := blockOffset t (tCount t)

/-- Whether the whole content lies in MEM: `CONTBASE + TotalSize <= MEM_SIZE` (R175, R176, R195, R218). -/
def contentInRange (s : State) : Bool := inRange s.contbase.toNat (totalSize s.tbl) s.params.memSize.val

/-- The bytes in MEM of block i, at `CONTBASE + Offset(i)` (R41, R74). -/
def blockData (s : State) (i : Nat) : Bytes :=
  s.mem.read (s.contbase.toNat + blockOffset s.tbl i) (dSize s.tbl i)

/-- `BlockLenOk(i)` (spec/43_signature_engine.md R177). -/
def blockLenOk (t : Memory) (i : Nat) : Bool :=
  dSize t i % 8 == 0 && (isEncrypted t i || decide (8 ≤ dSize t i))

/-- The indices of the table's blocks, in table order. -/
def blockIndices (t : Memory) : List Nat := List.range (tCount t)

end Sys2Proof.Machine
end

