-- ==== Sys2Proof/Machine/Cipher.lean ====
section
/-! DEFINITION. The pure functions of the cipher engine (spec/41_cipher_engine.md R130 to R136): the block operation
under one, two or three sub-keys, CBC around it, and the XOR-fold. -/

namespace Sys2Proof.Machine

open Sys2Proof

/-- A key count together with the sub-keys it uses (R130, R131): only the first `8*kn` bytes of a key string influence
the cipher (R135). -/
inductive CipherKey where
  /-- Single DES. -/
  | one (k1 : Block)
  /-- 2-key triple DES. -/
  | two (k1 k2 : Block)
  /-- 3-key triple DES. -/
  | three (k1 k2 k3 : Block)
deriving DecidableEq, Repr

/-- The sub-keys a key count selects from a 24-byte key string: sub-key j is `keys[8*(j-1) +: 8]` (R130). None for a
count outside 1, 2, 3, for which the cipher has no value (R131, R135). -/
def selectKey (kn : Nat) (keys : BitVec 192) : Option CipherKey :=
  match kn with
  | 1 => some (.one (keys.extractLsb' 128 64))
  | 2 => some (.two (keys.extractLsb' 128 64) (keys.extractLsb' 64 64))
  | 3 => some (.three (keys.extractLsb' 128 64) (keys.extractLsb' 64 64) (keys.extractLsb' 0 64))
  | _ => none

/-- A 16-byte key as a 2-key triple-DES key: its first 8 bytes are sub-key 1, its last 8 bytes sub-key 2 (R152, R215). -/
def twoKey (k : BitVec 128) : CipherKey := .two (k.extractLsb' 64 64) (k.extractLsb' 0 64)

/-- `BlockEnc` (R131). -/
def blockEnc : CipherKey → Block → Block
  | .one k1, b => desEnc k1 b
  | .two k1 k2, b => desEnc k1 (desDec k2 (desEnc k1 b))
  | .three k1 k2 k3, b => desEnc k3 (desDec k2 (desEnc k1 b))

/-- `BlockDec` (R132). -/
def blockDec : CipherKey → Block → Block
  | .one k1, b => desDec k1 b
  | .two k1 k2, b => desDec k1 (desEnc k2 (desDec k1 b))
  | .three k1 k2 k3, b => desDec k1 (desEnc k2 (desDec k3 b))

/-- CBC encryption of a sequence of blocks, the first argument being `C[i-1]` (R133). -/
def cbcEncBlocks (k : CipherKey) : Block → List Block → List Block
  | _, [] => []
  | prev, b :: bs => blockEnc k (b ^^^ prev) :: cbcEncBlocks k (blockEnc k (b ^^^ prev)) bs

/-- CBC decryption of a sequence of blocks (R134). -/
def cbcDecBlocks (k : CipherKey) : Block → List Block → List Block
  | _, [] => []
  | prev, c :: cs => (blockDec k c ^^^ prev) :: cbcDecBlocks k c cs

/-- `CbcEnc(data, kn, keys, iv)` on a byte string (R133). -/
def cbcEnc (k : CipherKey) (iv : Block) (data : Bytes) : Bytes :=
  bytesOfBlocks (cbcEncBlocks k iv (blocksOf data))

/-- `CbcDec(data, kn, keys, iv)` on a byte string (R134). -/
def cbcDec (k : CipherKey) (iv : Block) (data : Bytes) : Bytes :=
  bytesOfBlocks (cbcDecBlocks k iv (blocksOf data))

/-- `Fold(d, m)` over the 8-byte units of the message (R136). -/
def fold (d : Block) (m : Bytes) : Block := (blocksOf m).foldl (fun acc u => acc ^^^ u) d

/-- The last block of a ciphertext (R165, R168). Every caller's message has at least one block (R165 requires
`len(m) >= 8`, R168's message has at least 16 bytes), so the value for no block is never used: assumption log 12. -/
def lastBlock (c : List Block) : Block := c.getLastD 0

end Sys2Proof.Machine
end

