-- ==== Sys2Proof/Machine/CipherEngine.lean ====
section
/-! DEFINITION. The commands of the block cipher engine and of the XOR-fold primitive (spec/41_cipher_engine.md R137,
R138, R140, R141), each with the order of checks of spec/60_exceptions.md R259. -/

namespace Sys2Proof.Machine

open Sys2Proof

/-- What `CBC_ENC` and `CBC_DEC` share: the operands, the checks and their order, the write (R137; R138 "Operands,
checks, errors and corner cases exactly as `CBC_ENC`"). -/
def cipherBuffer (f : CipherKey → Block → Bytes → Bytes) (kn : Nat) (s : State) : Result :=
  if s.phase = .rejected then .next s
  else if missing (vCkey ||| vCiv) false s ≠ 0 then raise .operandInvalid (missing (vCkey ||| vCiv) false s) s
  else match selectKey kn s.ckey with
    | none => raise .invalidKeyCount (BitVec.ofNat 32 kn) s
    | some k =>
      if s.a2.toNat % 8 ≠ 0 then raise .lengthError s.a2 s
      else if inRange s.a0.toNat s.a2.toNat s.params.memSize.val = false then raise .accessFault s.a0 s
      else if inRange s.a1.toNat s.a2.toNat s.params.memSize.val = false then raise .accessFault s.a1 s
      else .next { s with mem := s.mem.write s.a1.toNat (f k s.civ (s.mem.read s.a0.toNat s.a2.toNat)) }

/-- `CBC_ENC kn` (R137). -/
def execCbcEnc (kn : Nat) (s : State) : Result := cipherBuffer cbcEnc kn s

/-- `CBC_DEC kn` (R138). -/
def execCbcDec (kn : Nat) (s : State) : Result := cipherBuffer cbcDec kn s

/-- `XOR_BUF` (R140): any length, no register and no key needed. -/
def execXorBuf (s : State) : Result :=
  if s.phase = .rejected then .next s
  else if inRange s.a0.toNat s.a2.toNat s.params.memSize.val = false then raise .accessFault s.a0 s
  else if inRange s.a1.toNat s.a2.toNat s.params.memSize.val = false then raise .accessFault s.a1 s
  else if inRange s.a3.toNat s.a2.toNat s.params.memSize.val = false then raise .accessFault s.a3 s
  else .next { s with
    mem := s.mem.write s.a3.toNat
      (xorBytes (s.mem.read s.a0.toNat s.a2.toNat) (s.mem.read s.a1.toNat s.a2.toNat)) }

/-- `FOLD8` (R141). -/
def execFold8 (s : State) : Result :=
  if s.phase = .rejected then .next s
  else if missing vDig false s ≠ 0 then raise .operandInvalid (missing vDig false s) s
  else if s.a2.toNat % 8 ≠ 0 then raise .lengthError s.a2 s
  else if inRange s.a0.toNat s.a2.toNat s.params.memSize.val = false then raise .accessFault s.a0 s
  else .next (s.putDig (fold s.dig (s.mem.read s.a0.toNat s.a2.toNat)))

end Sys2Proof.Machine
end

