-- ==== Sys2Proof/Machine/Signatures.lean ====
section
/-! DEFINITION. The pure functions of the key pipeline (spec/42_key_pipeline.md R150 to R153) and of the signature engine
(spec/43_signature_engine.md R165 to R169). Each reads only its arguments and the key-store secrets it names
(spec/00_scope.md R13). -/

namespace Sys2Proof.Machine

open Sys2Proof

/-- `HeaderDigest(hdr)`: header bytes 0..7 XOR header bytes 8..15 (R150). -/
def headerDigest (h : BitVec 256) : Block := h.extractLsb' 192 64 ^^^ h.extractLsb' 128 64

/-- `DeriveKek(hdr)` (R151). -/
def deriveKek (ks : KeyStore) (h : BitVec 256) : BitVec 128 :=
  blockEnc (twoKey ks.kbitMaster) (headerDigest h ^^^ ks.kbitIv) ++
  blockEnc (twoKey ks.kcMaster) (headerDigest h ^^^ ks.kcIv)

/-- `Unwrap16(kek, k)`: two separate one-block decryptions with a zero IV (R152). -/
def unwrap16 (kek k : BitVec 128) : BitVec 128 :=
  blockDec (twoKey kek) (k.extractLsb' 64 64) ++ blockDec (twoKey kek) (k.extractLsb' 0 64)

/-- `Wrap16(kek, k)` (R153). -/
def wrap16 (kek k : BitVec 128) : BitVec 128 :=
  blockEnc (twoKey kek) (k.extractLsb' 64 64) ++ blockEnc (twoKey kek) (k.extractLsb' 0 64)

/-- The combined key: the signature master key followed by the signature hash key, as a 2-key triple-DES key (R166). -/
def combinedKey (ks : KeyStore) : CipherKey := .two ks.sigMaster ks.sigHash

/-- `Mac3(m)`, the three-step scheme, for a message of at least 8 bytes (R165). -/
def mac3 (ks : KeyStore) (m : Bytes) : Block :=
  desEnc ks.sigMaster
    (desDec ks.sigHash (lastBlock (cbcEncBlocks (.one ks.sigMaster) 0 (blocksOf m))))

/-- `FoldSig(m)`, the fold scheme (R166). -/
def foldSig (ks : KeyStore) (m : Bytes) : Block := blockEnc (combinedKey ks) (fold 0 m)

/-- One half of a working key's contribution to the table digest: the second half enters only if it differs from the
first (R167). -/
def keySeed (k : BitVec 128) : Block :=
  if k.extractLsb' 64 64 ≠ k.extractLsb' 0 64 then k.extractLsb' 64 64 ^^^ k.extractLsb' 0 64
  else k.extractLsb' 64 64

/-- `TableSig(kbit, kc, tb)` (R167). -/
def tableSig (ks : KeyStore) (kbit kc : BitVec 128) (tb : Bytes) : Block :=
  blockEnc (combinedKey ks) (fold (keySeed kbit ^^^ keySeed kc) tb)

/-- The stored signatures of the SIGNED blocks, in table order (R168). -/
def signedSigs (t : Memory) : List Block := ((blockIndices t).filter (isSigned t)).map (dSig t)

/-- `RootSig(hsig, tsig)` over the plain table `t` (R168). -/
def rootSig (ks : KeyStore) (hsig tsig : Block) (t : Memory) : Block :=
  blockDec (twoKey ks.rootHash)
    (lastBlock (cbcEncBlocks (.one ks.rootMaster) 0 (hsig :: tsig :: signedSigs t)))

/-- `BlockSig(i)`: the scheme depends only on the ENCRYPTED flag (R169). -/
def blockSig (s : State) (i : Nat) : Block :=
  if isEncrypted s.tbl i then foldSig s.ks (blockData s i) else mac3 s.ks (blockData s i)

end Sys2Proof.Machine
end

