-- ==== Sys2Proof/Machine/KeyPipeline.lean ====
section
/-! DEFINITION. The commands of the key derivation, unwrap and wrap pipeline (spec/42_key_pipeline.md R154 to R156). -/

namespace Sys2Proof.Machine

open Sys2Proof

/-- `DERIVE_KEK` (R154). -/
def execDeriveKek (s : State) : Result :=
  if s.phase = .rejected then .next s
  else if missing vHdr true s ≠ 0 then raise .operandInvalid (missing vHdr true s) s
  else .next (s.putKek (deriveKek s.ks s.hdr))

/-- `UNWRAP_KEYS` (R155): the key store is not read, so it need not be locked. -/
def execUnwrapKeys (s : State) : Result :=
  if s.phase = .rejected then .next s
  else if missing (vKbit ||| vKc ||| vKek) false s ≠ 0 then
    raise .operandInvalid (missing (vKbit ||| vKc ||| vKek) false s) s
  else .next ((s.putKbit (unwrap16 s.kek s.kbit)).putKc (unwrap16 s.kek s.kc))

/-- `WRAP_KEYS` (R156). -/
def execWrapKeys (s : State) : Result :=
  if s.phase = .rejected then .next s
  else if missing (vKbit ||| vKc ||| vKek) false s ≠ 0 then
    raise .operandInvalid (missing (vKbit ||| vKc ||| vKek) false s) s
  else .next ((s.putKbit (wrap16 s.kek s.kbit)).putKc (wrap16 s.kek s.kc))

end Sys2Proof.Machine
end

