-- ==== Sys2Proof/Machine/TableContent.lean ====
section
/-! DEFINITION. The block-table and content cipher pipeline (spec/45_table_content_pipeline.md R215 to R220), with the
procedure `ContentCipher` (R218) that `LD_CONTENT` also uses. -/

namespace Sys2Proof.Machine

open Sys2Proof

/-- `TABLE_DEC` (R216): the length is the operand `A[2]`. -/
def execTableDec (s : State) : Result :=
  if s.phase = .rejected then .next s
  else if missing (vKbit ||| vTbl) true s ≠ 0 then
    raise .operandInvalid (missing (vKbit ||| vTbl) true s) s
  else if Config.tblBytes < s.a2.toNat then raise .invalidBitTableSize s.a2 s
  else if s.a2.toNat % 8 ≠ 0 then raise .lengthError s.a2 s
  else .next { s with tbl := s.tbl.write 0 (cbcDec (twoKey s.kbit) s.ks.tableIv (s.tbl.read 0 s.a2.toNat)) }

/-- `TABLE_ENC` (R217): the length is `TableBytes`, read from the plain table. -/
def execTableEnc (s : State) : Result :=
  if s.phase = .rejected then .next s
  else if missing (vKbit ||| vTbl) true s ≠ 0 then
    raise .operandInvalid (missing (vKbit ||| vTbl) true s) s
  else if Config.maxBlocks < tCount s.tbl then raise .invalidBitTableSize (BitVec.ofNat 32 (tCount s.tbl)) s
  else .next { s with
    tbl := s.tbl.write 0 (cbcEnc (twoKey s.kbit) s.ks.tableIv (s.tbl.read 0 (tableBytes s.tbl))) }

/-- One ENCRYPTED block of the content: its own CBC chain from the content IV, in place (R218). -/
def cipherBlock (f : CipherKey → Block → Bytes → Bytes) (k : CipherKey) (s : State) (m : Memory) (i : Nat) : Memory :=
  m.write (s.contbase.toNat + blockOffset s.tbl i)
    (f k s.ks.contentIv (m.read (s.contbase.toNat + blockOffset s.tbl i) (dSize s.tbl i)))

/-- The ENCRYPTED blocks, in table order (R218). -/
def encryptedBlocks (t : Memory) : List Nat := (blockIndices t).filter (isEncrypted t)

/-- The first ENCRYPTED block whose size is not a multiple of 8 (R218). -/
def firstMisaligned (t : Memory) : Option Nat :=
  (encryptedBlocks t).find? fun i => dSize t i % 8 != 0

/-- `ContentCipher(dir)` (R218): the new MEM, or the error it raises with its detail. The key string is `KC` followed by
`CONTENT_K3` (R221). -/
def contentCipher (f : CipherKey → Block → Bytes → Bytes) (s : State) : Except (EngineError × Word) Memory :=
  if Config.maxBlocks < tCount s.tbl then .error (.invalidBitTableSize, BitVec.ofNat 32 (tCount s.tbl))
  else if contentInRange s = false then .error (.accessFault, s.contbase)
  else if (encryptedBlocks s.tbl).isEmpty then .ok s.mem
  else match selectKey (contentKn s.hdr) (s.kc ++ s.params.contentK3) with
    | none => .error (.invalidKeyCount, BitVec.ofNat 32 (contentKn s.hdr))
    | some k =>
      match firstMisaligned s.tbl with
      | some i => .error (.lengthError, BitVec.ofNat 32 i)
      | none => .ok ((encryptedBlocks s.tbl).foldl (cipherBlock f k s) s.mem)

/-- What `CONTENT_DEC` and `CONTENT_ENC` share (R219, R220 "Operands and errors as `CONTENT_DEC`"). -/
def contentCommand (f : CipherKey → Block → Bytes → Bytes) (s : State) : Result :=
  if s.phase = .rejected then .next s
  else if missing (vHdr ||| vKc ||| vTbl) true s ≠ 0 then
    raise .operandInvalid (missing (vHdr ||| vKc ||| vTbl) true s) s
  else match contentCipher f s with
    | .error e => raise e.1 e.2 s
    | .ok m => .next { s with mem := m }

/-- `CONTENT_DEC` (R219). -/
def execContentDec (s : State) : Result := contentCommand cbcDec s

/-- `CONTENT_ENC` (R220). -/
def execContentEnc (s : State) : Result := contentCommand cbcEnc s

end Sys2Proof.Machine
end

