-- ==== Sys2Proof/Machine/LoadSave.lean ====
section
/-! DEFINITION. The load and save sequencer (spec/44_load_save_sequencer.md): the five gate commands (R190 to R195) and
`SV_SEAL` (R198). -/

namespace Sys2Proof.Machine

open Sys2Proof

/-- Whether `LD_HEADER` handles the header's container shape (R191): `Flags` bit 0 clear, bits 19 to 16 of the
zero-extended `Flags` zero (vacuous on a 16-bit field: spec/90_conflicts.md C1), `BitCount` zero. -/
def variantSupported (h : BitVec 256) : Bool :=
  hdrFlags h % 2 == 0 && hdrFlags h / 65536 % 16 == 0 && hdrBitCount h == 0

/-- `Flags | (BitCount << 16)`, the detail of `UnsupportedVariant` (R191, R256). -/
def variantInfo (h : BitVec 256) : Word :=
  BitVec.ofNat 32 (hdrFlags h) ||| (BitVec.ofNat 32 (hdrBitCount h) <<< 16)

/-- `LD_HEADER`, load steps 1 and 2 (R191). -/
def execLdHeader (s : State) : Result :=
  if s.phase = .rejected then .next s
  else if s.phase ≠ .unloaded then raise .sequenceError s.phase.info s
  else if missing (vHdr ||| vHsig) true s ≠ 0 then
    raise .operandInvalid (missing (vHdr ||| vHsig) true s) s
  else if variantSupported s.hdr = false then raise .unsupportedVariant (variantInfo s.hdr) s
  else if mac3 s.ks (bytesOf 32 s.hdr) ≠ s.hsig then raise .invalidHeaderSignature 0 s
  else .next { s with phase := .headerRead }

/-- `LD_KEYS`, load step 3 (R192). -/
def execLdKeys (s : State) : Result :=
  if s.phase = .rejected then .next s
  else if s.phase ≠ .headerRead then raise .sequenceError s.phase.info s
  else if missing (vHdr ||| vKbit ||| vKc) true s ≠ 0 then
    raise .operandInvalid (missing (vHdr ||| vKbit ||| vKc) true s) s
  else .next {
    ((s.putKek (deriveKek s.ks s.hdr)).putKbit (unwrap16 (deriveKek s.ks s.hdr) s.kbit)).putKc
      (unwrap16 (deriveKek s.ks s.hdr) s.kc) with
    phase := .keysUnwrapped }

/-- The first `budget` bytes of `TBL`, decrypted as one CBC chain under `KBIT` (R193, R215). -/
def decryptedTable (s : State) (budget : Nat) : Bytes :=
  cbcDec (twoKey s.kbit) s.ks.tableIv (s.tbl.read 0 budget)

/-- The count `le32(tb[4 +: 4])` of the decrypted table (R193). -/
def decryptedCount (s : State) (budget : Nat) : Nat := leNat (slice (decryptedTable s budget) 4 4)

/-- `TBL` with the decrypted table in its first `budget` bytes (R193). -/
def loadedTable (s : State) (budget : Nat) : Memory := s.tbl.write 0 (decryptedTable s budget)

/-- `LD_TABLE` after its budget checks: the second `need` line, the decryption, the count check, the two signatures
(R193). -/
def loadTable (budget : Nat) (s : State) : Result :=
  if missing (vTbl ||| vTsig ||| vRsig) false s ≠ 0 then
    raise .operandInvalid (missing (vTbl ||| vTsig ||| vRsig) false s) s
  else if ¬ (decryptedCount s budget ≤ Config.maxBlocks ∧ tableBytesOf (decryptedCount s budget) ≤ budget) then
    raise .invalidBitTableSize (BitVec.ofNat 32 (decryptedCount s budget)) s
  else if tableSig s.ks s.kbit s.kc ((loadedTable s budget).read 0 (tableBytesOf (decryptedCount s budget)))
      ≠ s.tsig then
    raise .invalidBitTableSignature 0 s
  else if rootSig s.ks s.hsig s.tsig (loadedTable s budget) ≠ s.rsig then raise .invalidRootSignature 0 s
  else .next { s with tbl := loadedTable s budget, phase := .tableVerified }

/-- `LD_TABLE`, load steps 4 to 7 (R193). The detail of a budget out of range is its two's-complement 32-bit form. -/
def execLdTable (s : State) : Result :=
  if s.phase = .rejected then .next s
  else if s.phase ≠ .keysUnwrapped then raise .sequenceError s.phase.info s
  else if missing (vHdr ||| vHsig ||| vKbit ||| vKc) true s ≠ 0 then
    raise .operandInvalid (missing (vHdr ||| vHsig ||| vKbit ||| vKc) true s) s
  else if ¬ (8 ≤ tableBudget s.hdr ∧ tableBudget s.hdr ≤ (Config.tblBytes : Int)) then
    raise .invalidBitTableSize (BitVec.ofInt 32 (tableBudget s.hdr)) s
  else if tableBudget s.hdr % 8 ≠ 0 then raise .lengthError (BitVec.ofInt 32 (tableBudget s.hdr)) s
  else loadTable (tableBudget s.hdr).toNat s

/-- `LD_CONTENT`, load step 9 (R194). -/
def execLdContent (s : State) : Result :=
  if s.phase = .rejected then .next s
  else if s.phase ≠ .tableVerified then raise .sequenceError s.phase.info s
  else if missing (vHdr ||| vKc ||| vTbl) true s ≠ 0 then
    raise .operandInvalid (missing (vHdr ||| vKc ||| vTbl) true s) s
  else match contentCipher cbcDec s with
    | .error e => raise e.1 e.2 s
    | .ok m => .next { s with mem := m, phase := .contentDecrypted }

/-- What `LD_VERIFY` finds wrong with one block (R195): nothing for a block not flagged SIGNED. -/
def blockProblem (s : State) (i : Nat) : Option (EngineError × Word) :=
  if isSigned s.tbl i = false then none
  else if blockLenOk s.tbl i = false then some (.lengthError, BitVec.ofNat 32 i)
  else if blockSig s i ≠ dSig s.tbl i then some (.invalidContentSignature, BitVec.ofNat 32 i)
  else none

/-- `LD_VERIFY`, load step 10 (R195): the first failing block in table order is reported. -/
def execLdVerify (s : State) : Result :=
  if s.phase = .rejected then .next s
  else if s.phase ≠ .contentDecrypted then raise .sequenceError s.phase.info s
  else if missing vTbl true s ≠ 0 then raise .operandInvalid (missing vTbl true s) s
  else if Config.maxBlocks < tCount s.tbl then raise .invalidBitTableSize (BitVec.ofNat 32 (tCount s.tbl)) s
  else if contentInRange s = false then raise .accessFault s.contbase s
  else match (blockIndices s.tbl).findSome? (blockProblem s) with
    | some e => raise e.1 e.2 s
    | none => .next { s with phase := .verified }

/-- The table signature `SV_SEAL` computes, over the plain table (R198). -/
def sealTableSig (s : State) : Block := tableSig s.ks s.kbit s.kc (s.tbl.read 0 (tableBytes s.tbl))

/-- The state after the writes of `SV_SEAL` (R198): everything is computed from the state before the command. -/
def sealed (s : State) : State :=
  { ((((((s.putHsig (mac3 s.ks (bytesOf 32 s.hdr))).putTsig (sealTableSig s)).putRsig
      (rootSig s.ks (mac3 s.ks (bytesOf 32 s.hdr)) (sealTableSig s) s.tbl)).putKek (deriveKek s.ks s.hdr)).putKbit
      (wrap16 (deriveKek s.ks s.hdr) s.kbit)).putKc (wrap16 (deriveKek s.ks s.hdr) s.kc)) with
    tbl := s.tbl.write 0 (cbcEnc (twoKey s.kbit) s.ks.tableIv (s.tbl.read 0 (tableBytes s.tbl))) }

/-- `SV_SEAL` (R198): legal in every phase but `Rejected`; `PHASE` is unchanged. -/
def execSvSeal (s : State) : Result :=
  if s.phase = .rejected then .next s
  else if missing (vHdr ||| vKbit ||| vKc ||| vTbl) true s ≠ 0 then
    raise .operandInvalid (missing (vHdr ||| vKbit ||| vKc ||| vTbl) true s) s
  else if Config.maxBlocks < tCount s.tbl then raise .invalidBitTableSize (BitVec.ofNat 32 (tCount s.tbl)) s
  else .next (sealed s)

end Sys2Proof.Machine
end

