-- ==== Sys2Proof/Machine/Management.lean ====
section
/-! DEFINITION. The management commands (spec/46_management.md R239 to R241). The common first step of every command,
"ignored in `Rejected`" (spec/60_exceptions.md R259 step 1), stands in each meaning. -/

namespace Sys2Proof.Machine

open Sys2Proof

/-- `NOP`: "No state changes; no error" (R239), in every phase. -/
def execNop (s : State) : Result := .next s

/-- `KS_LOCK` (R241). -/
def execKsLock (s : State) : Result :=
  if s.phase = .rejected then .next s
  else if s.kslock then .next s
  else if absentSlots s ≠ 0 then raise .incompleteKeyStore (absentSlots s) s
  else .next { s with kslock := true }

/-- `CLEAR` (R240): the only command executed in `Rejected` (R262). -/
def execClear (s : State) : Result := .next (clearInstance s)

end Sys2Proof.Machine
end

