-- ==== Sys2Proof/Machine/SignatureEngine.lean ====
section
/-! DEFINITION. The commands of the signature computation engine (spec/43_signature_engine.md R170 to R176). Every one
needs the key store locked. -/

namespace Sys2Proof.Machine

open Sys2Proof

/-- `MAC3` (R170). -/
def execMac3 (s : State) : Result :=
  if s.phase = .rejected then .next s
  else if missing 0 true s ≠ 0 then raise .operandInvalid (missing 0 true s) s
  else if ¬ (s.a2.toNat % 8 = 0 ∧ 8 ≤ s.a2.toNat) then raise .lengthError s.a2 s
  else if inRange s.a0.toNat s.a2.toNat s.params.memSize.val = false then raise .accessFault s.a0 s
  else .next (s.putSig (mac3 s.ks (s.mem.read s.a0.toNat s.a2.toNat)))

/-- `FOLDSIG` (R171). -/
def execFoldSig (s : State) : Result :=
  if s.phase = .rejected then .next s
  else if missing 0 true s ≠ 0 then raise .operandInvalid (missing 0 true s) s
  else if s.a2.toNat % 8 ≠ 0 then raise .lengthError s.a2 s
  else if inRange s.a0.toNat s.a2.toNat s.params.memSize.val = false then raise .accessFault s.a0 s
  else .next (s.putSig (foldSig s.ks (s.mem.read s.a0.toNat s.a2.toNat)))

/-- `SIG_HEADER` (R172). -/
def execSigHeader (s : State) : Result :=
  if s.phase = .rejected then .next s
  else if missing vHdr true s ≠ 0 then raise .operandInvalid (missing vHdr true s) s
  else .next (s.putSig (mac3 s.ks (bytesOf 32 s.hdr)))

/-- `SIG_TABLE` (R173). -/
def execSigTable (s : State) : Result :=
  if s.phase = .rejected then .next s
  else if missing (vKbit ||| vKc ||| vTbl) true s ≠ 0 then
    raise .operandInvalid (missing (vKbit ||| vKc ||| vTbl) true s) s
  else if Config.maxBlocks < tCount s.tbl then raise .invalidBitTableSize (BitVec.ofNat 32 (tCount s.tbl)) s
  else .next (s.putSig (tableSig s.ks s.kbit s.kc (s.tbl.read 0 (tableBytes s.tbl))))

/-- `SIG_ROOT` (R174): `HSIG` and `TSIG` as they are. -/
def execSigRoot (s : State) : Result :=
  if s.phase = .rejected then .next s
  else if missing (vHsig ||| vTsig ||| vTbl) true s ≠ 0 then
    raise .operandInvalid (missing (vHsig ||| vTsig ||| vTbl) true s) s
  else if Config.maxBlocks < tCount s.tbl then raise .invalidBitTableSize (BitVec.ofNat 32 (tCount s.tbl)) s
  else .next (s.putSig (rootSig s.ks s.hsig s.tsig s.tbl))

/-- `SIG_BLOCK` (R175): whether or not the block is flagged SIGNED. -/
def execSigBlock (s : State) : Result :=
  if s.phase = .rejected then .next s
  else if missing vTbl true s ≠ 0 then raise .operandInvalid (missing vTbl true s) s
  else if Config.maxBlocks < tCount s.tbl then raise .invalidBitTableSize (BitVec.ofNat 32 (tCount s.tbl)) s
  else if tCount s.tbl ≤ s.a0.toNat then raise .accessFault s.a0 s
  else if contentInRange s = false then raise .accessFault s.contbase s
  else if blockLenOk s.tbl s.a0.toNat = false then raise .lengthError s.a0 s
  else .next (s.putSig (blockSig s s.a0.toNat))

/-- The first SIGNED block, in table order, whose length its signature scheme does not take (R176). -/
def firstUnsignable (t : Memory) : Option Nat :=
  (blockIndices t).find? fun i => isSigned t i && !blockLenOk t i

/-- The table with the signature of every SIGNED block stored in its descriptor (R176); every signature is computed
from the state before the command (R67). -/
def signTable (s : State) : Memory :=
  ((blockIndices s.tbl).filter (isSigned s.tbl)).foldl
    (fun t i => t.write (16 + 16 * i) (bytesOf 8 (blockSig s i))) s.tbl

/-- `SIGN_BLOCKS` (R176). -/
def execSignBlocks (s : State) : Result :=
  if s.phase = .rejected then .next s
  else if missing vTbl true s ≠ 0 then raise .operandInvalid (missing vTbl true s) s
  else if Config.maxBlocks < tCount s.tbl then raise .invalidBitTableSize (BitVec.ofNat 32 (tCount s.tbl)) s
  else if contentInRange s = false then raise .accessFault s.contbase s
  else match firstUnsignable s.tbl with
    | some i => raise .lengthError (BitVec.ofNat 32 i) s
    | none => .next { s with tbl := signTable s }

end Sys2Proof.Machine
end

