-- ==== Sys2Proof/Machine/Dispatch.lean ====
section
/-! DEFINITION. One command of the engine (spec/30_encoding.md R94): each arm is one call of the command's own meaning. -/

namespace Sys2Proof.Machine

open Sys2Proof

def exec (i : Instr) (s : State) : Host.Outcome State Fault Refusal :=
  match i with
  | .nop => Sys2Proof.Machine.execNop s
  | .ksLock => Sys2Proof.Machine.execKsLock s
  | .clear => Sys2Proof.Machine.execClear s
  | .cbcEnc kn => Sys2Proof.Machine.execCbcEnc kn s
  | .cbcDec kn => Sys2Proof.Machine.execCbcDec kn s
  | .xorBuf => Sys2Proof.Machine.execXorBuf s
  | .fold8 => Sys2Proof.Machine.execFold8 s
  | .deriveKek => Sys2Proof.Machine.execDeriveKek s
  | .unwrapKeys => Sys2Proof.Machine.execUnwrapKeys s
  | .wrapKeys => Sys2Proof.Machine.execWrapKeys s
  | .mac3 => Sys2Proof.Machine.execMac3 s
  | .foldSig => Sys2Proof.Machine.execFoldSig s
  | .sigHeader => Sys2Proof.Machine.execSigHeader s
  | .sigTable => Sys2Proof.Machine.execSigTable s
  | .sigRoot => Sys2Proof.Machine.execSigRoot s
  | .sigBlock => Sys2Proof.Machine.execSigBlock s
  | .signBlocks => Sys2Proof.Machine.execSignBlocks s
  | .ldHeader => Sys2Proof.Machine.execLdHeader s
  | .ldKeys => Sys2Proof.Machine.execLdKeys s
  | .ldTable => Sys2Proof.Machine.execLdTable s
  | .ldContent => Sys2Proof.Machine.execLdContent s
  | .ldVerify => Sys2Proof.Machine.execLdVerify s
  | .svSeal => Sys2Proof.Machine.execSvSeal s
  | .tableDec => Sys2Proof.Machine.execTableDec s
  | .tableEnc => Sys2Proof.Machine.execTableEnc s
  | .contentDec => Sys2Proof.Machine.execContentDec s
  | .contentEnc => Sys2Proof.Machine.execContentEnc s

end Sys2Proof.Machine
end

