-- ==== Sys2Proof/Machine/HostPort.lean ====
section
/-! DEFINITION. The host transactions (spec/46_management.md R230 to R238) and the reset event (R242), each a function of
the state and its arguments. What a read returns is left in `reply`. -/

namespace Sys2Proof.Machine

open Sys2Proof

/-- `HostCommand(w)` (R231; spec/60_exceptions.md R259 steps 1 and 2): in `Rejected` only the exact word of `CLEAR` is
executed and no word is decoded (spec/30_encoding.md R97); otherwise an illegal word raises `IllegalCommand(w)` (R96)
and a legal one is executed. -/
def hostCommand (w : Word) (s : State) : Result :=
  if s.phase = .rejected then
    (if w = 0x00000002 then exec .clear s else .next s)
  else match decode w with
    | .error _ => raise .illegalCommand w s
    | .ok i => exec i s

/-- The bit of `KSPRESENT` of a slot (R32). -/
def slotBit (k : Slot) : BitVec 10 := BitVec.ofNat 10 (2 ^ k.index)

/-- `HostWriteKey(slot, v)` (R232). -/
def hostWriteKey (k : Slot) (v : Bytes) (s : State) : Result :=
  if s.phase = .rejected then .next s
  else if s.kslock then raise .keyStoreLocked (BitVec.ofNat 32 k.index) s
  else .next { s with ks := writeSlot k v s.ks, kspresent := s.kspresent ||| slotBit k }

/-- `HostWriteReg(reg, v)` with a byte string (R233): a data register takes it, a key-store slot takes it as
`HostWriteKey` does (assumption log 8), a read-only register ignores it (assumption log 11). A 32-bit writable register
takes no byte string: the step refuses that as no transaction, and the value given here is never reached by it. -/
def hostWriteReg (r : Reg) (v : Bytes) (s : State) : Result :=
  match r with
  | .data d => if s.phase = .rejected then .next s else .next (writeData d v s)
  | .slot k => hostWriteKey k v s
  | .status => .next s
  | .err => .next s
  | .errinfo => .next s
  | .valid => .next s
  | .kspresent => .next s
  | .cmd => .refused .notATransaction
  | .contbase => .refused .notATransaction
  | .a _ => .refused .notATransaction

/-- `HostWriteReg(reg, v)` with a number (R233): `A[i]` and `CONTBASE` take it modulo 2^32, `CMD` takes it as a command
word (R34; modulo 2^32, assumption log 9), a read-only register ignores it. A data register or a slot takes no number. -/
def hostSetReg (r : Reg) (v : Nat) (s : State) : Result :=
  match r with
  | .cmd => hostCommand (BitVec.ofNat 32 v) s
  | .a i => if s.phase = .rejected then .next s else .next (writeA i (BitVec.ofNat 32 v) s)
  | .contbase => if s.phase = .rejected then .next s else .next { s with contbase := BitVec.ofNat 32 v }
  | .status => .next s
  | .err => .next s
  | .errinfo => .next s
  | .valid => .next s
  | .kspresent => .next s
  | .data .sig => .next s
  | .data _ => .refused .notATransaction
  | .slot _ => .refused .notATransaction

/-- The value of a register as the host reads it (R234, R35); none for a key-store slot (R33). -/
def regValue (r : Reg) (s : State) : Option Reply :=
  match r with
  | .cmd => some (.number 0)
  | .status => some (.number (statusWord s))
  | .err => some (.number (errWord s))
  | .errinfo => some (.number s.errinfo)
  | .valid => some (.number (validWord s))
  | .kspresent => some (.number (kspresentWord s))
  | .contbase => some (.number s.contbase)
  | .a i => some (.number (readA i s))
  | .data d => some (.bytes (readData d s))
  | .slot _ => none

/-- `HostReadReg(reg)` (R234): no side effect, in every phase (R230). -/
def hostReadReg (r : Reg) (s : State) : Result :=
  match regValue r s with
  | some v => .next { s with reply := some v }
  | none => .refused .notATransaction

/-- `HostWriteTbl(off, v)` (R235). -/
def hostWriteTbl (off : Nat) (v : Bytes) (s : State) : Result :=
  if s.phase = .rejected then .next s
  else if inRange off v.length Config.tblBytes = false then raise .accessFault (BitVec.ofNat 32 off) s
  else .next { s with tbl := s.tbl.write off v, valid := s.valid ||| vTbl }

/-- What the two bounded reads share (R236, R238): the bytes when the range is in bounds; else `n` zero bytes, and
`AccessFault` of the address unless `PHASE = Rejected` already. -/
def hostReadRange (m : Memory) (size addr n : Nat) (s : State) : Result :=
  if inRange addr n size then .next { s with reply := some (.bytes (m.read addr n)) }
  else if s.phase = .rejected then .next { s with reply := some (.bytes (List.replicate n 0)) }
  else raise .accessFault (BitVec.ofNat 32 addr) { s with reply := some (.bytes (List.replicate n 0)) }

/-- `HostReadTbl(off, n)` (R236). -/
def hostReadTbl (off n : Nat) (s : State) : Result := hostReadRange s.tbl Config.tblBytes off n s

/-- `HostWriteMem(addr, v)` (R237). -/
def hostWriteMem (addr : Nat) (v : Bytes) (s : State) : Result :=
  if s.phase = .rejected then .next s
  else if inRange addr v.length s.params.memSize.val = false then raise .accessFault (BitVec.ofNat 32 addr) s
  else .next { s with mem := s.mem.write addr v }

/-- `HostReadMem(addr, n)` (R238): in every phase, `Rejected` included. -/
def hostReadMem (addr n : Nat) (s : State) : Result := hostReadRange s.mem s.params.memSize.val addr n s

/-- One host transaction, or the reset event, on a state (R230, R242). -/
def perform (t : Transaction) (s : State) : Result :=
  match t with
  | .command w => hostCommand w s
  | .writeKey n v =>
    match Slot.ofIndex n with
    | some k => hostWriteKey k v s
    | none => .refused .notATransaction
  | .writeReg n v =>
    match Reg.ofNumber n with
    | some r => hostWriteReg r v s
    | none => .refused .notATransaction
  | .setReg n v =>
    match Reg.ofNumber n with
    | some r => hostSetReg r v s
    | none => .refused .notATransaction
  | .readReg n =>
    match Reg.ofNumber n with
    | some r => hostReadReg r s
    | none => .refused .notATransaction
  | .writeTbl off v => hostWriteTbl off v s
  | .readTbl off n => hostReadTbl off n s
  | .writeMem addr v => hostWriteMem addr v s
  | .readMem addr n => hostReadMem addr n s
  | .reset contents => .next (resetEvent contents s)

/-- The state in which the next transaction is performed: it has left the input, and nothing has been returned for it
yet (assumption logs 3, 4). -/
def State.taking (rest : List Transaction) (s : State) : State := { s with inbox := rest, reply := none }

/-- The next transaction of the input, performed; what is no transaction of R230 is refused. With no input pending the
state does not change (spec/10_state.md R20). -/
def takeNext (s : State) : Result :=
  match s.inbox with
  | [] => .next s
  | t :: rest => if t.wf then perform t (s.taking rest) else .refused .notATransaction

end Sys2Proof.Machine
end

