-- ==== Sys2Proof/Machine/Step.lean ====
section
/-! DEFINITION. One step of the machine: the next host transaction, which happens entirely before the one after it
(spec/10_state.md R20; spec/46_management.md R230). The engine has no program counter and fetches nothing
(spec/10_state.md R24): a command word comes from the host's write to `CMD` and from nowhere else (spec/20_memory.md
R79). -/

namespace Sys2Proof.Machine

open Sys2Proof

/-- One step. -/
def step (s : State) : Host.Outcome State Fault Refusal := takeNext s

/-- The state with the host's write of a command word to `CMD` as its next transaction (R34, R231). -/
def State.withFetchWord (s : State) (nbits w : Nat) : State :=
  { s with inbox := .command (BitVec.ofNat 32 (w % 2 ^ nbits)) :: s.inbox }

end Sys2Proof.Machine
end

