-- ==== Sys2Proof/Safety.lean ====
section
/-! DEFINITION. What counts as a safe state and a safe run of the engine, and the words the statements use: which states
let a command pass its `need` line, what a command that raises answers, what a store leaves in a memory, and the
invariants of the state (spec/10_state.md R24 to R38; spec/60_exceptions.md R257 to R262). -/

namespace Sys2Proof.Machine

open Sys2Proof

/-! ## Words for the rules of the commands -/

/-- The engine is not in `Rejected`, every named valid bit is set, and the key store is locked if `ks` asks for it: the
states in which `need(names, KS)` passes (R257, R259). -/
def Ready (names : BitVec 12) (ks : Bool) (s : State) : Prop :=
  s.phase ≠ .rejected ∧ s.valid &&& names = names ∧ (ks = true → s.kslock = true)

/-- Command `i` raises error `e` with detail `info` on `s` (R258). -/
def Raises (i : Instr) (s : State) (e : EngineError) (info : Word) : Prop :=
  exec i s = .next (takeError e info s)

/-- The range of `n` bytes from `a` lies in MEM, on mathematical integers (R62, R64). -/
def Fits (s : State) (a n : Nat) : Prop := a + n ≤ s.params.memSize.val

/-- Reading any byte of `m'` gives byte `x - a` of `v` inside the `n` bytes from `a`, and what `m` has everywhere else
(R63 "No other byte changes"). -/
def Stores (m m' : Memory) (a n : Nat) (v : Bytes) : Prop :=
  ∀ x, m'.get x = if a ≤ x ∧ x < a + n then v.getD (x - a) 0 else m.get x

/-- `k` is the cipher key that a key count of 1, 2 or 3 selects from a 24-byte key string (R130, R131). -/
def SelectsKey (kn : Nat) (keys : BitVec 192) (k : CipherKey) : Prop :=
  (kn = 1 ∧ k = .one (keys.extractLsb' 128 64)) ∨
  (kn = 2 ∧ k = .two (keys.extractLsb' 128 64) (keys.extractLsb' 64 64)) ∨
  (kn = 3 ∧ k = .three (keys.extractLsb' 128 64) (keys.extractLsb' 64 64) (keys.extractLsb' 0 64))

/-- The bytes of one secret of a key store (R31). -/
def slotBytes (k : Slot) (ks : KeyStore) : Bytes :=
  match k with
  | .sigMaster => bytesOf 8 ks.sigMaster
  | .sigHash => bytesOf 8 ks.sigHash
  | .kbitMaster => bytesOf 16 ks.kbitMaster
  | .kbitIv => bytesOf 8 ks.kbitIv
  | .kcMaster => bytesOf 16 ks.kcMaster
  | .kcIv => bytesOf 8 ks.kcIv
  | .rootMaster => bytesOf 8 ks.rootMaster
  | .rootHash => bytesOf 16 ks.rootHash
  | .tableIv => bytesOf 8 ks.tableIv
  | .contentIv => bytesOf 8 ks.contentIv

/-- The last 8 bytes of a ciphertext, `c[len(c)-8 +: 8]` (R165, R168). -/
def lastEight (c : Bytes) : Block := ofBytes 64 (c.drop (c.length - 8))

/-- The phase a gate command requires and the phase it leaves on success (R190); none for every other command. -/
def gateOf : Instr → Option (Phase × Phase)
  | .ldHeader => some (.unloaded, .headerRead)
  | .ldKeys => some (.headerRead, .keysUnwrapped)
  | .ldTable => some (.keysUnwrapped, .tableVerified)
  | .ldContent => some (.tableVerified, .contentDecrypted)
  | .ldVerify => some (.contentDecrypted, .verified)
  | .nop => none | .ksLock => none | .clear => none | .cbcEnc _ => none | .cbcDec _ => none | .xorBuf => none
  | .fold8 => none | .deriveKek => none | .unwrapKeys => none | .wrapKeys => none | .mac3 => none
  | .foldSig => none | .sigHeader => none | .sigTable => none | .sigRoot => none | .sigBlock => none
  | .signBlocks => none | .svSeal => none | .tableDec => none | .tableEnc => none | .contentDec => none
  | .contentEnc => none

/-- The commands of a list, one after the other. -/
def execAll : List Instr → State → Result
  | [], s => .next s
  | i :: is, s =>
    match exec i s with
    | .next t => execAll is t
    | .fault r => .fault r
    | .refused r => .refused r

/-- Whether a transaction is a read (R234, R236, R238). -/
def isRead : Transaction → Bool
  | .readReg _ => true
  | .readTbl _ _ => true
  | .readMem _ _ => true
  | .command _ => false | .writeKey _ _ => false | .writeReg _ _ => false | .setReg _ _ => false
  | .writeTbl _ _ => false | .writeMem _ _ => false | .reset _ => false

/-- Whether a transaction is the host's write of the `CLEAR` word, the only one executed in `Rejected` (R262): as
`HostCommand` or as a write of register `CMD` (R34), whose number is taken modulo 2^32 (assumption log 9). -/
def isClear : Transaction → Bool
  | .command w => w == 0x00000002
  | .setReg n v => n == 0 && BitVec.ofNat 32 v == (0x00000002 : Word)
  | .writeKey _ _ => false | .writeReg _ _ => false | .readReg _ => false | .writeTbl _ _ => false
  | .readTbl _ _ => false | .writeMem _ _ => false | .readMem _ _ => false | .reset _ => false

/-- Whether a transaction is the reset event (R242). -/
def isReset : Transaction → Bool
  | .reset _ => true
  | .command _ => false | .writeKey _ _ => false | .writeReg _ _ => false | .setReg _ _ => false
  | .readReg _ => false | .writeTbl _ _ => false | .readTbl _ _ => false | .writeMem _ _ => false
  | .readMem _ _ => false

/-! ## Invariants of the state -/

/-- MEM and `TBL` are in canonical form and inside their address spaces (R43, R38). -/
def memoriesOk (s : State) : Bool :=
  s.mem.wf && s.mem.below s.params.memSize.val && s.tbl.wf && s.tbl.below Config.tblBytes

/-- A data register whose valid bit is clear holds zero bytes, and so does `TBL` (R27, R38). -/
def invalidIsZero (s : State) : Bool :=
  (s.valid.getLsbD 0 || s.hdr == 0) && (s.valid.getLsbD 1 || s.hsig == 0) && (s.valid.getLsbD 2 || s.kbit == 0) &&
  (s.valid.getLsbD 3 || s.kc == 0) && (s.valid.getLsbD 4 || s.kek == 0) && (s.valid.getLsbD 5 || s.tsig == 0) &&
  (s.valid.getLsbD 6 || s.rsig == 0) && (s.valid.getLsbD 7 || s.sig == 0) && (s.valid.getLsbD 8 || s.dig == 0) &&
  (s.valid.getLsbD 9 || s.ckey == 0) && (s.valid.getLsbD 10 || s.civ == 0) && (s.valid.getLsbD 11 || s.tbl.isEmpty)

/-- `ERR` names an error exactly in `Rejected`, `ERRINFO` is 0 outside it (R26), no data register is valid in it
(R258), and `ERR` never holds a number the engine never writes (R256). -/
def errorRecordOk (s : State) : Bool :=
  if s.phase = .rejected then
    s.valid == 0 && ([1, 2, 3, 4, 5, 6, 7, 8, 16, 17, 18, 19, 20, 21] : List (BitVec 8)).contains s.err
  else s.err == 0 && s.errinfo == 0

/-- A locked key store is complete (R32, R241), and an absent slot holds zero bytes (R46). -/
def keyStoreOk (s : State) : Bool :=
  (!s.kslock || s.kspresent == 0x3FF) &&
  (s.kspresent.getLsbD 0 || s.ks.sigMaster == 0) && (s.kspresent.getLsbD 1 || s.ks.sigHash == 0) &&
  (s.kspresent.getLsbD 2 || s.ks.kbitMaster == 0) && (s.kspresent.getLsbD 3 || s.ks.kbitIv == 0) &&
  (s.kspresent.getLsbD 4 || s.ks.kcMaster == 0) && (s.kspresent.getLsbD 5 || s.ks.kcIv == 0) &&
  (s.kspresent.getLsbD 6 || s.ks.rootMaster == 0) && (s.kspresent.getLsbD 7 || s.ks.rootHash == 0) &&
  (s.kspresent.getLsbD 8 || s.ks.tableIv == 0) && (s.kspresent.getLsbD 9 || s.ks.contentIv == 0)

/-- A safe run of the engine: every state of it meets the four invariants. -/
def safeState (s : State) : Bool := memoriesOk s && invalidIsZero s && errorRecordOk s && keyStoreOk s

end Sys2Proof.Machine
end

