-- ==== Sys2Proof/Certificates/Slice0/Obligations.lean ====
section
/-! DEFINITION. The statements for the provers, taken from the numbered rules of spec/. A definition of the first part
spells the shape that two or more statements share; every `Obligations.<Name>` is one statement. -/

namespace Sys2Proof.Machine

open Sys2Proof

/-! ## The fixtures of spec/95_test_vectors.md section 1 that the rules' examples use -/

/-- TKS1, the key store of fixed test values. -/
def testKeys : KeyStore :=
  { sigMaster := 0x0123456789ABCDEF, sigHash := 0xFEDCBA9876543210,
    kbitMaster := 0x00112233445566778899AABBCCDDEEFF, kbitIv := 0x0F1E2D3C4B5A6978,
    kcMaster := 0x1032547698BADCFEEFCDAB8967452301, kcIv := 0x8796A5B4C3D2E1F0,
    rootMaster := 0x1122334455667788, rootHash := 0x99AABBCCDDEEFF000123456789ABCDEF,
    tableIv := 0xA1B2C3D4E5F60718, contentIv := 0x1827364554637281 }

/-- HDR1, a 32-byte header with content selector 2 and `HeaderSize` 144. -/
def testHdr : BitVec 256 := 0x000102030405060708090A0B0C0D0E0F400000009000000120000000FFFFFFFF

/-- KB2, an unwrapped `KBIT`. -/
def testKbit : BitVec 128 := 0x0123456789ABCDEF1122334455667788

/-- KC2, an unwrapped `KC`. -/
def testKc : BitVec 128 := 0xA0A1A2A3A4A5A6A7B0B1B2B3B4B5B6B7

/-- V40, the plain signed table of CON1: its 56 bytes. -/
def testTableBytes : Bytes :=
  bytesOf 56 (0x90000000030000002000000003000000810640A988B7A2EA10000000020000004B4C9B28FAEABFC010000000000000000000000000000000 : BitVec 448)

/-- The same table encrypted, as CON1 holds it (V41, V42). -/
def testTableCipher : Bytes :=
  bytesOf 56 (0x43862A614C1809FEE9C8679DC7BFCA29FC022FC483F91B5523CE2E4D3B02B69AE2F7EF624CDA387351C9CE56243225622CA096A1CF64E9D7 : BitVec 448)

/-- Block 0 of CONTENT1 (32 bytes, ENCRYPTED and SIGNED). -/
def testBlock0 : Bytes :=
  bytesOf 32 (0x01050B131D293747596D839BB5D1EF0F31557BA3CDF9275789BDF32B65A1DF1F : BitVec 256)

/-- Block 1 of CONTENT1 (16 bytes, SIGNED). -/
def testBlock1 : Bytes := bytesOf 16 (0x61A5EB337DC91767B90D63BB1571CF2F : BitVec 128)

/-! ## Shapes that several statements share -/

/-- One row of the worked examples of the block function: key, plain block, cipher block, both ways (R122). -/
def DesExample (k b c : Block) : Prop := desEnc k b = c ∧ desDec k c = b

/-- The rule of `CBC_ENC` and of `CBC_DEC` (R137, R138): the encoding, the errors in the order they are checked, each
with its detail, and the one store. `mk` is the command, `op` its opcode, `f` its cipher function. -/
def CipherCommandRule (op : Nat) (mk : Nat → Instr) (f : CipherKey → Block → Bytes → Bytes) : Prop :=
  (∀ kn < 8, decode (BitVec.ofNat 32 (op + 256 * kn)) = .ok (mk kn)) ∧
  ∀ kn s, s.phase ≠ .rejected →
    (missing (vCkey ||| vCiv) false s ≠ 0 →
      Raises (mk kn) s .operandInvalid (missing (vCkey ||| vCiv) false s)) ∧
    (Ready (vCkey ||| vCiv) false s →
      (kn ≠ 1 ∧ kn ≠ 2 ∧ kn ≠ 3 → Raises (mk kn) s .invalidKeyCount (BitVec.ofNat 32 kn)) ∧
      (kn = 1 ∨ kn = 2 ∨ kn = 3 →
        (s.a2.toNat % 8 ≠ 0 → Raises (mk kn) s .lengthError s.a2) ∧
        (s.a2.toNat % 8 = 0 → ¬ Fits s s.a0.toNat s.a2.toNat → Raises (mk kn) s .accessFault s.a0) ∧
        (s.a2.toNat % 8 = 0 → Fits s s.a0.toNat s.a2.toNat → ¬ Fits s s.a1.toNat s.a2.toNat →
          Raises (mk kn) s .accessFault s.a1) ∧
        (s.a2.toNat % 8 = 0 → Fits s s.a0.toNat s.a2.toNat → Fits s s.a1.toNat s.a2.toNat → s.mem.wf = true →
          ∀ k, SelectsKey kn s.ckey k →
            ∃ m, exec (mk kn) s = .next { s with mem := m } ∧
              Stores s.mem m s.a1.toNat s.a2.toNat (f k s.civ (s.mem.read s.a0.toNat s.a2.toNat)))))

/-- The rule of `ContentCipher` (R218, R221) inside the command `i` of word `op`, from the phases that `here` admits: its
errors in order, and the store of every ENCRYPTED block at `CONTBASE + Offset(j)`, computed from the state before the
command. `done` is what else the command writes. -/
def ContentRule (op : Word) (i : Instr) (f : CipherKey → Block → Bytes → Bytes) (here : Phase → Prop)
    (done : State → State) : Prop :=
  decode op = .ok i ∧
  ∀ s, here s.phase →
    (missing (vHdr ||| vKc ||| vTbl) true s ≠ 0 →
      Raises i s .operandInvalid (missing (vHdr ||| vKc ||| vTbl) true s)) ∧
    (Ready (vHdr ||| vKc ||| vTbl) true s →
      (256 < tCount s.tbl → Raises i s .invalidBitTableSize (BitVec.ofNat 32 (tCount s.tbl))) ∧
      (tCount s.tbl ≤ 256 → ¬ Fits s s.contbase.toNat (totalSize s.tbl) → Raises i s .accessFault s.contbase) ∧
      (tCount s.tbl ≤ 256 → Fits s s.contbase.toNat (totalSize s.tbl) →
        ((∀ j < tCount s.tbl, isEncrypted s.tbl j = false) → exec i s = .next (done s)) ∧
        (∀ e < tCount s.tbl, isEncrypted s.tbl e = true →
          (contentKn s.hdr = 0 → Raises i s .invalidKeyCount 0) ∧
          (contentKn s.hdr ≠ 0 →
            (∀ j < tCount s.tbl, isEncrypted s.tbl j = true → dSize s.tbl j % 8 ≠ 0 →
              (∀ b < j, isEncrypted s.tbl b = true → dSize s.tbl b % 8 = 0) →
              Raises i s .lengthError (BitVec.ofNat 32 j)) ∧
            ((∀ j < tCount s.tbl, isEncrypted s.tbl j = true → dSize s.tbl j % 8 = 0) → s.mem.wf = true →
              ∀ k, SelectsKey (contentKn s.hdr) (s.kc ++ s.params.contentK3) k →
                ∃ m, exec i s = .next (done { s with mem := m }) ∧
                  (∀ j < tCount s.tbl, isEncrypted s.tbl j = true → ∀ b < dSize s.tbl j,
                    m.get (s.contbase.toNat + blockOffset s.tbl j + b) =
                      (f k s.ks.contentIv (blockData s j)).getD b 0) ∧
                  (∀ x, (∀ j < tCount s.tbl, isEncrypted s.tbl j = true →
                      ¬ (s.contbase.toNat + blockOffset s.tbl j ≤ x ∧
                        x < s.contbase.toNat + blockOffset s.tbl j + dSize s.tbl j)) →
                    m.get x = s.mem.get x))))))

end Sys2Proof.Machine

open Sys2Proof Sys2Proof.Machine

/-! ## Encoding (spec/30_encoding.md) -/

/-- R94: the opcode map as match and mask on the 32-bit word, every row. -/
def Obligations.DecodeMatchesOpcodeMap : Prop :=
  ∀ w : Word,
    (decode w = .ok .nop ↔ w &&& 0xFFFFFFFF = 0x00000000) ∧
    (decode w = .ok .ksLock ↔ w &&& 0xFFFFFFFF = 0x00000001) ∧
    (decode w = .ok .clear ↔ w &&& 0xFFFFFFFF = 0x00000002) ∧
    (∀ kn, decode w = .ok (.cbcEnc kn) ↔ w &&& 0xFFFFF8FF = 0x00000010 ∧ kn = (w.extractLsb' 8 3).toNat) ∧
    (∀ kn, decode w = .ok (.cbcDec kn) ↔ w &&& 0xFFFFF8FF = 0x00000011 ∧ kn = (w.extractLsb' 8 3).toNat) ∧
    (decode w = .ok .xorBuf ↔ w &&& 0xFFFFFFFF = 0x00000012) ∧
    (decode w = .ok .fold8 ↔ w &&& 0xFFFFFFFF = 0x00000013) ∧
    (decode w = .ok .deriveKek ↔ w &&& 0xFFFFFFFF = 0x00000020) ∧
    (decode w = .ok .unwrapKeys ↔ w &&& 0xFFFFFFFF = 0x00000021) ∧
    (decode w = .ok .wrapKeys ↔ w &&& 0xFFFFFFFF = 0x00000022) ∧
    (decode w = .ok .mac3 ↔ w &&& 0xFFFFFFFF = 0x00000030) ∧
    (decode w = .ok .foldSig ↔ w &&& 0xFFFFFFFF = 0x00000031) ∧
    (decode w = .ok .sigHeader ↔ w &&& 0xFFFFFFFF = 0x00000032) ∧
    (decode w = .ok .sigTable ↔ w &&& 0xFFFFFFFF = 0x00000033) ∧
    (decode w = .ok .sigRoot ↔ w &&& 0xFFFFFFFF = 0x00000034) ∧
    (decode w = .ok .sigBlock ↔ w &&& 0xFFFFFFFF = 0x00000035) ∧
    (decode w = .ok .signBlocks ↔ w &&& 0xFFFFFFFF = 0x00000036) ∧
    (decode w = .ok .ldHeader ↔ w &&& 0xFFFFFFFF = 0x00000040) ∧
    (decode w = .ok .ldKeys ↔ w &&& 0xFFFFFFFF = 0x00000041) ∧
    (decode w = .ok .ldTable ↔ w &&& 0xFFFFFFFF = 0x00000042) ∧
    (decode w = .ok .ldContent ↔ w &&& 0xFFFFFFFF = 0x00000043) ∧
    (decode w = .ok .ldVerify ↔ w &&& 0xFFFFFFFF = 0x00000044) ∧
    (decode w = .ok .svSeal ↔ w &&& 0xFFFFFFFF = 0x00000048) ∧
    (decode w = .ok .tableDec ↔ w &&& 0xFFFFFFFF = 0x00000050) ∧
    (decode w = .ok .tableEnc ↔ w &&& 0xFFFFFFFF = 0x00000051) ∧
    (decode w = .ok .contentDec ↔ w &&& 0xFFFFFFFF = 0x00000052) ∧
    (decode w = .ok .contentEnc ↔ w &&& 0xFFFFFFFF = 0x00000053)

/-- R91 and R95: the decoder's steps on the word's bit fields, and that a legal word's command has the word's `OP` and
`KN`. -/
def Obligations.DecoderFollowsItsSteps : Prop :=
  ∀ (w : Word) (op kn z : Nat),
    op = (w.extractLsb' 0 8).toNat → kn = (w.extractLsb' 8 3).toNat → z = (w.extractLsb' 11 21).toNat →
    (wordOp w = op ∧ wordKn w = kn ∧ wordZ w = z) ∧
    ((∃ e, decode w = .error e) ↔
      z ≠ 0 ∨
      op ∉ [0x00, 0x01, 0x02, 0x10, 0x11, 0x12, 0x13, 0x20, 0x21, 0x22, 0x30, 0x31, 0x32, 0x33, 0x34, 0x35, 0x36,
        0x40, 0x41, 0x42, 0x43, 0x44, 0x48, 0x50, 0x51, 0x52, 0x53] ∨
      (kn ≠ 0 ∧ op ≠ 0x10 ∧ op ≠ 0x11)) ∧
    (∀ i, decode w = .ok i → opcode i = op ∧ keyCountField i = kn)

/-- Decoding and encoding agree, both ways, on every 32-bit word and every well-formed instruction: no bit of an
encoding is dropped. -/
def Obligations.DecodeAndEncodeAgree : Prop :=
  ∀ (w : Word) (i : Instr), decode w = .ok i ↔ i.wf = true ∧ encode i = w

/-- Words written out bit by bit from the `encoding` column of the opcode table decode to the command they stand for. -/
def Obligations.WrittenOutWordsDecode : Prop :=
  decode 0b00000000000000000000000000000010 = .ok .clear ∧
  decode 0b00000000000000000000001100010000 = .ok (.cbcEnc 3) ∧
  decode 0b00000000000000000000010000010001 = .ok (.cbcDec 4) ∧
  decode 0b00000000000000000000000000100001 = .ok .unwrapKeys ∧
  decode 0b00000000000000000000000000110110 = .ok .signBlocks ∧
  decode 0b00000000000000000000000001000010 = .ok .ldTable ∧
  decode 0b00000000000000000000000001001000 = .ok .svSeal ∧
  decode 0b00000000000000000000000001010011 = .ok .contentEnc ∧
  decode 0b00000000000000000000100000010000 = .error .reservedBits ∧
  decode 0b00000000000000000000000100000000 = .error .keyCountNotAllowed ∧
  decode 0b00000000000000000000000000000011 = .error .unknownOpcode

/-! ## The step and the host interface (spec/46_management.md) -/

/-- A step whose next transaction is a command word that decodes to `i` runs `i`, in every phase; and `withFetchWord`
makes a word that step's command. That the commands to come stand in `inbox`, and what `withFetchWord` does, are the
model's choice (assumption log 3). -/
def Obligations.StepRunsTheDecodedCommand : Prop :=
  (∀ s w rest i, s.inbox = .command w :: rest → decode w = .ok i → step s = exec i (s.taking rest)) ∧
  (∀ (s : State) (w : Word) i, decode w = .ok i → step (s.withFetchWord 32 w.toNat) = exec i (s.taking s.inbox))

/-- An illegal word outside `Rejected` raises `IllegalCommand` with the whole word as its detail. -/
def Obligations.IllegalWordRaisesIllegalCommand : Prop :=
  ∀ s w rest e, s.inbox = .command w :: rest → s.phase ≠ .rejected → decode w = .error e →
    step s = .next (takeError .illegalCommand w (s.taking rest))

/-- A step takes exactly the next transaction off the input, leaves the instance's parameters, returns a value only for
a read, and with no input pending changes nothing. The fields `inbox` and `reply` are the model's (assumption logs 3
and 4). -/
def Obligations.StepConsumesOneTransaction : Prop :=
  (∀ s, s.inbox = [] → step s = .next s) ∧
  (∀ s t x rest, s.inbox = x :: rest → step s = .next t →
    t.inbox = rest ∧ t.params = s.params ∧ (isRead x = false → t.reply = none) ∧
      (isRead x = true → t.reply.isSome = true))

/-- Every host transaction completes, in every state; only what is no transaction is refused, and nothing faults. Which host inputs are no transaction, and that errors are next states, are assumption
logs 6 and 7. -/
def Obligations.EveryTransactionCompletes : Prop :=
  ∀ s x rest, s.inbox = x :: rest →
    (x.wf = true → ∃ t, step s = .next t) ∧ (x.wf = false → step s = .refused .notATransaction)

/-- R233: a host write of a data register makes it read as the bytes written, sets its valid bit and changes no other
register; an operand register or `CONTBASE` takes the number modulo 2^32; a read-only register ignores the write; `CMD`
is a host command; a byte string written to the number of a key-store slot is a write of that slot. That the byte form
and the number form are two transactions is assumption log 5, that a slot is written by its register number too is
log 8, and that a read-only register ignores a byte string of any length is log 11. -/
def Obligations.HostWriteRegFollowsItsRule : Prop :=
  ∀ s rest, s.phase ≠ .rejected →
    (∀ d v, d ≠ .sig → v.length = d.bytes → s.inbox = .writeReg (Reg.data d).number v :: rest →
      ∃ t, step s = .next t ∧ readData d t = v ∧ t.valid = s.valid ||| BitVec.ofNat 12 (2 ^ d.index) ∧
        (∀ d', d' ≠ d → readData d' t = readData d' s) ∧
        t = { s.taking rest with
          hdr := t.hdr, hsig := t.hsig, kbit := t.kbit, kc := t.kc, kek := t.kek, tsig := t.tsig, rsig := t.rsig,
          dig := t.dig, ckey := t.ckey, civ := t.civ, valid := t.valid }) ∧
    (∀ v, s.inbox = .writeReg (Reg.data .sig).number v :: rest → step s = .next (s.taking rest)) ∧
    (∀ i v, s.inbox = .setReg (Reg.a i).number v :: rest →
      ∃ t, step s = .next t ∧ (readA i t).toNat = v % 2 ^ 32 ∧ (∀ j, j ≠ i → readA j t = readA j s) ∧
        t = { s.taking rest with a0 := t.a0, a1 := t.a1, a2 := t.a2, a3 := t.a3 }) ∧
    (∀ v, s.inbox = .setReg Reg.contbase.number v :: rest →
      step s = .next { s.taking rest with contbase := BitVec.ofNat 32 (v % 2 ^ 32) }) ∧
    (∀ r v, r ∈ [Reg.status, .err, .errinfo, .valid, .kspresent] → s.inbox = .setReg r.number v :: rest →
      step s = .next (s.taking rest)) ∧
    (∀ v, s.inbox = .setReg (Reg.data .sig).number v :: rest → step s = .next (s.taking rest)) ∧
    (∀ r v, r ∈ [Reg.status, .err, .errinfo, .valid, .kspresent] → s.inbox = .writeReg r.number v :: rest →
      step s = .next (s.taking rest)) ∧
    (∀ k v, s.inbox = .writeReg (Reg.slot k).number v :: rest →
      step s = step { s with inbox := .writeKey (Slot.index k) v :: rest }) ∧
    (∀ w : Word, s.inbox = .setReg Reg.cmd.number w.toNat :: rest →
      step s = step { s with inbox := .command w :: rest })

/-- R232, R235, R237: a key-store slot takes its bytes while the store is unlocked, with the nine others as before, and
raises `KeyStoreLocked` after; a
table or memory write in range stores exactly its bytes, and one out of range raises `AccessFault` of its address. -/
def Obligations.HostStoresFollowTheirRules : Prop :=
  ∀ s rest, s.phase ≠ .rejected →
    (∀ k v, v.length = k.bytes → s.kslock = false → s.inbox = .writeKey (Slot.index k) v :: rest →
      ∃ ks', step s = .next { s.taking rest with
          ks := ks', kspresent := s.kspresent ||| BitVec.ofNat 10 (2 ^ k.index) } ∧
        slotBytes k ks' = v ∧ ∀ k', k' ≠ k → slotBytes k' ks' = slotBytes k' s.ks) ∧
    (∀ k v, v.length = k.bytes → s.kslock = true → s.inbox = .writeKey (Slot.index k) v :: rest →
      step s = .next (takeError .keyStoreLocked (BitVec.ofNat 32 k.index) (s.taking rest))) ∧
    (∀ off v, off + v.length ≤ 4104 → s.tbl.wf = true → s.inbox = .writeTbl off v :: rest →
      ∃ m, step s = .next { s.taking rest with tbl := m, valid := s.valid ||| vTbl } ∧ Stores s.tbl m off v.length v) ∧
    (∀ off v, 4104 < off + v.length → s.inbox = .writeTbl off v :: rest →
      step s = .next (takeError .accessFault (BitVec.ofNat 32 off) (s.taking rest))) ∧
    (∀ addr v, Fits s addr v.length → s.mem.wf = true → s.inbox = .writeMem addr v :: rest →
      ∃ m, step s = .next { s.taking rest with mem := m } ∧ Stores s.mem m addr v.length v) ∧
    (∀ addr v, ¬ Fits s addr v.length → s.inbox = .writeMem addr v :: rest →
      step s = .next (takeError .accessFault (BitVec.ofNat 32 addr) (s.taking rest)))

/-- R234, R236, R238 with R24 and R25: what each read returns, in every phase, for every register, and that it changes
nothing but the error it raises on an out-of-range read outside `Rejected`; an invalid data register reads as zero
bytes. That the value returned stands in `reply` is the model's choice (assumption log 4). -/
def Obligations.HostReadsReturnTheState : Prop :=
  (∀ s rest r v, s.inbox = .readReg r.number :: rest → regValue r s = some v →
    step s = .next { s.taking rest with reply := some v }) ∧
  (∀ s, regValue .cmd s = some (.number 0) ∧ regValue .status s = some (.number (statusWord s)) ∧
    (statusWord s).extractLsb' 0 3 = BitVec.ofNat 3 s.phase.code ∧ (statusWord s).getLsbD 3 = s.kslock ∧
    (statusWord s).extractLsb' 4 28 = 0 ∧
    regValue .err s = some (.number (s.err.setWidth 32)) ∧ regValue .errinfo s = some (.number s.errinfo) ∧
    regValue .valid s = some (.number (s.valid.setWidth 32)) ∧
    regValue .kspresent s = some (.number (s.kspresent.setWidth 32)) ∧
    regValue .contbase s = some (.number s.contbase)) ∧
  ([Phase.unloaded, .headerRead, .keysUnwrapped, .tableVerified, .contentDecrypted, .verified, .rejected].map
      Phase.code = [0, 1, 2, 3, 4, 5, 7]) ∧
  (∀ s, (∀ i, regValue (.a i) s = some (.number (readA i s))) ∧
    readA 0 s = s.a0 ∧ readA 1 s = s.a1 ∧ readA 2 s = s.a2 ∧ readA 3 s = s.a3) ∧
  (∀ s, (∀ d, regValue (.data d) s = some (.bytes (readData d s))) ∧
    readData .hdr s = bytesOf 32 s.hdr ∧ readData .hsig s = bytesOf 8 s.hsig ∧ readData .kbit s = bytesOf 16 s.kbit ∧
    readData .kc s = bytesOf 16 s.kc ∧ readData .kek s = bytesOf 16 s.kek ∧ readData .tsig s = bytesOf 8 s.tsig ∧
    readData .rsig s = bytesOf 8 s.rsig ∧ readData .sig s = bytesOf 8 s.sig ∧ readData .dig s = bytesOf 8 s.dig ∧
    readData .ckey s = bytesOf 24 s.ckey ∧ readData .civ s = bytesOf 8 s.civ) ∧
  (∀ s d, invalidIsZero s = true → s.valid.getLsbD d.index = false →
    regValue (.data d) s = some (.bytes (List.replicate d.bytes 0))) ∧
  (∀ s rest addr n, Fits s addr n → s.inbox = .readMem addr n :: rest →
    ∃ v, step s = .next { s.taking rest with reply := some (.bytes v) } ∧ v.length = n ∧
      ∀ k < n, v.getD k 0 = s.mem.get (addr + k)) ∧
  (∀ s rest off n, off + n ≤ 4104 → s.inbox = .readTbl off n :: rest →
    ∃ v, step s = .next { s.taking rest with reply := some (.bytes v) } ∧ v.length = n ∧
      ∀ k < n, v.getD k 0 = s.tbl.get (off + k)) ∧
  (∀ s rest addr n, (¬ Fits s addr n ∧ s.inbox = .readMem addr n :: rest) ∨
      (4104 < addr + n ∧ s.inbox = .readTbl addr n :: rest) →
    (s.phase = .rejected → step s = .next { s.taking rest with reply := some (.bytes (List.replicate n 0)) }) ∧
    (s.phase ≠ .rejected → step s = .next { takeError .accessFault (BitVec.ofNat 32 addr) (s.taking rest) with
      reply := some (.bytes (List.replicate n 0)) }))

/-! ## Errors, `Rejected`, `PHASE`, reset -/

/-- R257: the bits of the mask that `need(...)` reports. -/
def Obligations.NeedMaskBits : Prop :=
  ∀ names ks s,
    (∀ n < 12, (missing names ks s).getLsbD n = (names.getLsbD n && !s.valid.getLsbD n)) ∧
    (missing names ks s).getLsbD 31 = (ks && !s.kslock) ∧
    (∀ n, 12 ≤ n → n ≠ 31 → (missing names ks s).getLsbD n = false)

/-- R258 and R260: what the error mechanism leaves, with the error numbers of R256 spelled, and that a command or a
transaction that raises has changed nothing else: the state after it is the error mechanism's on the state before
it. -/
def Obligations.ErrorsArePrecise : Prop :=
  ([EngineError.invalidKeyCount, .unsupportedVariant, .invalidHeaderSignature, .invalidBitTableSignature,
      .invalidRootSignature, .invalidContentSignature, .invalidBitTableSize, .incompleteKeyStore, .malformedEntry,
      .illegalCommand, .sequenceError, .operandInvalid, .lengthError, .accessFault, .keyStoreLocked].map
      EngineError.number = [1, 2, 3, 4, 5, 6, 7, 8, 9, 16, 17, 18, 19, 20, 21]) ∧
  (∀ e w s, (takeError e w s).err = e.number ∧ (takeError e w s).errinfo = w ∧
    (takeError e w s).phase = .rejected ∧ (takeError e w s).valid = 0 ∧
    (∀ d, readData d (takeError e w s) = List.replicate d.bytes 0) ∧ (∀ x, (takeError e w s).tbl.get x = 0) ∧
    (∀ i, readA i (takeError e w s) = readA i s) ∧ (takeError e w s).contbase = s.contbase ∧
    (takeError e w s).mem = s.mem ∧ (takeError e w s).ks = s.ks ∧ (takeError e w s).kspresent = s.kspresent ∧
    (takeError e w s).kslock = s.kslock) ∧
  (∀ i s t, exec i s = .next t → s.phase ≠ .rejected → t.phase = .rejected → ∃ e w, t = takeError e w s) ∧
  (∀ s t x rest, s.inbox = x :: rest → step s = .next t → s.phase ≠ .rejected → t.phase = .rejected →
    ∃ e w, t = { takeError e w (s.taking rest) with reply := t.reply })

/-- R262 and R263: in `Rejected` every transaction but a read, the word of `CLEAR` and reset is ignored, a read changes
nothing but what it returns, and `CLEAR` and reset are the only ways out. That a number written to `CMD` is the command
word modulo 2^32, so that such a write of 2^32 + 2 is the word of `CLEAR` too, is assumption log 9. -/
def Obligations.RejectedIgnoresAllButReadsClearReset : Prop :=
  ∀ s x rest, s.phase = .rejected → s.inbox = x :: rest → x.wf = true →
    (isRead x = false → isClear x = false → isReset x = false → step s = .next (s.taking rest)) ∧
    (isRead x = true → ∃ r, step s = .next { s.taking rest with reply := some r }) ∧
    (isClear x = true → step s = .next (clearInstance (s.taking rest))) ∧
    (∀ t, step s = .next t → t.phase ≠ .rejected → isClear x = true ∨ isReset x = true)

/-- R200: the transition table of `PHASE`, for commands, for the other host transactions and for reset, and that
nothing but `CLEAR` and reset moves `PHASE` backwards. -/
def Obligations.PhaseTransitionTable : Prop :=
  (∀ i s t p q, gateOf i = some (p, q) → exec i s = .next t → s.phase = p → t.phase = q ∨ t.phase = .rejected) ∧
  (∀ i s p q, gateOf i = some (p, q) → s.phase ≠ p → s.phase ≠ .rejected →
    exec i s = .next (takeError .sequenceError (BitVec.ofNat 32 s.phase.code) s)) ∧
  (∀ s, ∃ t, exec .clear s = .next t ∧ t.phase = .unloaded) ∧
  (∀ i s t, gateOf i = none → i ≠ .clear → exec i s = .next t → t.phase = s.phase ∨ t.phase = .rejected) ∧
  (∀ i s, i ≠ .clear → s.phase = .rejected → exec i s = .next s) ∧
  (∀ s t x rest, s.inbox = x :: rest → step s = .next t → isReset x = true → t.phase = .unloaded) ∧
  (∀ s t x rest, s.inbox = x :: rest → step s = .next t → (∀ w, x ≠ .command w) → (∀ v, x ≠ .setReg 0 v) →
    isReset x = false → t.phase = s.phase ∨ t.phase = .rejected) ∧
  (∀ s t x rest, s.inbox = x :: rest → step s = .next t → isReset x = false → isClear x = false →
    s.phase.code ≤ t.phase.code)

/-- R46: what reset leaves, for every contents of MEM that a canonical memory below `MEM_SIZE` can hold. That the reset
transaction carries those contents and leaves the transactions still to come pending is assumption log 10. -/
def Obligations.ResetLeavesTheStatedValues : Prop :=
  ∀ s rest contents, s.inbox = .reset contents :: rest → Memory.wf contents = true →
    Memory.below contents s.params.memSize.val = true →
    ∃ t, step s = .next t ∧ (∀ i, readA i t = 0) ∧ t.contbase = 0 ∧ t.phase = .unloaded ∧ t.err = 0 ∧
      t.errinfo = 0 ∧ (∀ d, readData d t = List.replicate d.bytes 0) ∧ t.valid = 0 ∧ t.ks = KeyStore.empty ∧
      t.kspresent = 0 ∧ t.kslock = false ∧ (∀ x, t.tbl.get x = 0) ∧ t.mem = contents ∧ t.params = s.params ∧
      t.inbox = rest

/-! ## Management commands -/

/-- R239: `NOP` changes nothing, in every phase; its word is 0. -/
def Obligations.NopChangesNothing : Prop :=
  decode 0x00000000 = .ok .nop ∧ ∀ s, exec .nop s = .next s

/-- R241: `KS_LOCK` locks a complete key store, raises `IncompleteKeyStore` with the mask of the absent slots, and does
nothing when already locked. -/
def Obligations.KsLockFollowsItsRule : Prop :=
  decode 0x00000001 = .ok .ksLock ∧
  ∀ s, s.phase ≠ .rejected →
    (s.kslock = true → exec .ksLock s = .next s) ∧
    (s.kslock = false → s.kspresent ≠ 0x3FF →
      Raises .ksLock s .incompleteKeyStore ((~~~ (s.kspresent.setWidth 32)) &&& 0x3FF)) ∧
    (s.kslock = false → s.kspresent = 0x3FF → exec .ksLock s = .next { s with kslock := true })

/-- R240: what `CLEAR` leaves, from every state, `Rejected` included; the key store and MEM keep their values; no other
command is executed in `Rejected`. -/
def Obligations.ClearStartsAFreshInstance : Prop :=
  decode 0x00000002 = .ok .clear ∧
  (∀ s, ∃ t, exec .clear s = .next t ∧ (∀ i, readA i t = 0) ∧ t.contbase = 0 ∧
    (∀ d, readData d t = List.replicate d.bytes 0) ∧ t.valid = 0 ∧ (∀ x, t.tbl.get x = 0) ∧ t.err = 0 ∧
    t.errinfo = 0 ∧ t.phase = .unloaded ∧ t.ks = s.ks ∧ t.kspresent = s.kspresent ∧ t.kslock = s.kslock ∧
    t.mem = s.mem ∧ t.params = s.params ∧ t.inbox = s.inbox ∧ t.reply = s.reply) ∧
  (∀ i s, i ≠ .clear → s.phase = .rejected → exec i s = .next s)

/-! ## The cipher engine (spec/41_cipher_engine.md) -/

/-- R137: `CBC_ENC` with its encoding, errors, store and example. -/
def Obligations.CbcEncFollowsItsRule : Prop :=
  CipherCommandRule 0x10 .cbcEnc cbcEnc ∧
  cbcEnc (.one 0x0123456789ABCDEF) 0x1234567890ABCDEF
      (bytesOf 24 (0x4E6F77206973207468652074696D6520666F7220616C6C20 : BitVec 192)) =
    bytesOf 24 (0xE5C7CDDE872BF27C43E934008C389C0F683788499A7C05F6 : BitVec 192)

/-- R138: `CBC_DEC` with its encoding, errors, store and example. -/
def Obligations.CbcDecFollowsItsRule : Prop :=
  CipherCommandRule 0x11 .cbcDec cbcDec ∧
  cbcDec (.one 0x0123456789ABCDEF) 0x1234567890ABCDEF
      (bytesOf 24 (0xE5C7CDDE872BF27C43E934008C389C0F683788499A7C05F6 : BitVec 192)) =
    bytesOf 24 (0x4E6F77206973207468652074696D6520666F7220616C6C20 : BitVec 192)

/-- R140: `XOR_BUF` raises `AccessFault` for the first range out of bounds, and else stores the XOR of the bytes that
stood at the two sources, byte by byte, with every other byte as before. -/
def Obligations.XorBufFollowsItsRule : Prop :=
  decode 0x00000012 = .ok .xorBuf ∧
  xorBytes (bytesOf 5 (0x00FF55AA0F : BitVec 40)) (bytesOf 5 (0xFFFF00AAF0 : BitVec 40)) =
    bytesOf 5 (0xFF005500FF : BitVec 40) ∧
  ∀ s, s.phase ≠ .rejected →
    (¬ Fits s s.a0.toNat s.a2.toNat → Raises .xorBuf s .accessFault s.a0) ∧
    (Fits s s.a0.toNat s.a2.toNat → ¬ Fits s s.a1.toNat s.a2.toNat → Raises .xorBuf s .accessFault s.a1) ∧
    (Fits s s.a0.toNat s.a2.toNat → Fits s s.a1.toNat s.a2.toNat → ¬ Fits s s.a3.toNat s.a2.toNat →
      Raises .xorBuf s .accessFault s.a3) ∧
    (Fits s s.a0.toNat s.a2.toNat → Fits s s.a1.toNat s.a2.toNat → Fits s s.a3.toNat s.a2.toNat →
      s.mem.wf = true →
      ∃ m, exec .xorBuf s = .next { s with mem := m } ∧
        ∀ x, m.get x =
          if s.a3.toNat ≤ x ∧ x < s.a3.toNat + s.a2.toNat then
            s.mem.get (s.a0.toNat + (x - s.a3.toNat)) ^^^ s.mem.get (s.a1.toNat + (x - s.a3.toNat))
          else s.mem.get x)

/-- R141: `FOLD8` folds the buffer into `DIG`; folding the same buffer twice restores `DIG`. -/
def Obligations.Fold8FollowsItsRule : Prop :=
  decode 0x00000013 = .ok .fold8 ∧
  fold 0 (bytesOf 24 (0x010203040506070811121314151617182122232425262728 : BitVec 192)) = 0x3132333435363738 ∧
  ∀ s, s.phase ≠ .rejected →
    (missing vDig false s ≠ 0 → Raises .fold8 s .operandInvalid (missing vDig false s)) ∧
    (Ready vDig false s → s.a2.toNat % 8 ≠ 0 → Raises .fold8 s .lengthError s.a2) ∧
    (Ready vDig false s → s.a2.toNat % 8 = 0 → ¬ Fits s s.a0.toNat s.a2.toNat → Raises .fold8 s .accessFault s.a0) ∧
    (Ready vDig false s → s.a2.toNat % 8 = 0 → Fits s s.a0.toNat s.a2.toNat →
      ∃ t, exec .fold8 s = .next t ∧ t = { s with dig := fold s.dig (s.mem.read s.a0.toNat s.a2.toNat) } ∧
        exec .fold8 t = .next s)

/-! ## The key pipeline (spec/42_key_pipeline.md) -/

/-- R154 with R150 and R151: the KEK `DERIVE_KEK` leaves, and nothing else changed. -/
def Obligations.DeriveKekFollowsItsRule : Prop :=
  decode 0x00000020 = .ok .deriveKek ∧
  headerDigest testHdr = 0x0808080808080808 ∧ deriveKek testKeys testHdr = 0x079577BBFCC1E918ECAF4640C524EE6A ∧
  ∀ s hd, s.phase ≠ .rejected → hd = s.hdr.extractLsb' 192 64 ^^^ s.hdr.extractLsb' 128 64 →
    (missing vHdr true s ≠ 0 → Raises .deriveKek s .operandInvalid (missing vHdr true s)) ∧
    (Ready vHdr true s → exec .deriveKek s = .next { s with
      kek := ofBytes 128
        (cbcEnc (.two (s.ks.kbitMaster.extractLsb' 64 64) (s.ks.kbitMaster.extractLsb' 0 64)) 0
            (bytesOf 8 (hd ^^^ s.ks.kbitIv)) ++
          cbcEnc (.two (s.ks.kcMaster.extractLsb' 64 64) (s.ks.kcMaster.extractLsb' 0 64)) 0
            (bytesOf 8 (hd ^^^ s.ks.kcIv))),
      valid := s.valid ||| 0x010 })

/-- R155 with R152: `UNWRAP_KEYS` decrypts each 8-byte half of `KBIT` and of `KC` by itself, with a zero IV; the key
store need not be locked. -/
def Obligations.UnwrapKeysFollowsItsRule : Prop :=
  decode 0x00000021 = .ok .unwrapKeys ∧
  unwrap16 0x079577BBFCC1E918ECAF4640C524EE6A 0xB067900802F051DB54C3161B974AFC3A = testKbit ∧
  unwrap16 0x079577BBFCC1E918ECAF4640C524EE6A 0x90E9ACC29224F43342462F133F28FE40 = testKc ∧
  ∀ s k, s.phase ≠ .rejected → k = CipherKey.two (s.kek.extractLsb' 64 64) (s.kek.extractLsb' 0 64) →
    (missing (vKbit ||| vKc ||| vKek) false s ≠ 0 →
      Raises .unwrapKeys s .operandInvalid (missing (vKbit ||| vKc ||| vKek) false s)) ∧
    (Ready (vKbit ||| vKc ||| vKek) false s → exec .unwrapKeys s = .next { s with
      kbit := ofBytes 128 (cbcDec k 0 (slice (bytesOf 16 s.kbit) 0 8) ++ cbcDec k 0 (slice (bytesOf 16 s.kbit) 8 8)),
      kc := ofBytes 128 (cbcDec k 0 (slice (bytesOf 16 s.kc) 0 8) ++ cbcDec k 0 (slice (bytesOf 16 s.kc) 8 8)) })

/-- R156 with R153: `WRAP_KEYS`, likewise with encryption. -/
def Obligations.WrapKeysFollowsItsRule : Prop :=
  decode 0x00000022 = .ok .wrapKeys ∧
  wrap16 0x079577BBFCC1E918ECAF4640C524EE6A 0xAAAAAAAAAAAAAAAAAAAAAAAAAAAAAAAA = 0xA8BDB5CE951C9ACAA8BDB5CE951C9ACA ∧
  wrap16 0x079577BBFCC1E918ECAF4640C524EE6A 0xBBBBBBBBBBBBBBBBBBBBBBBBBBBBBBBB = 0xFCA5C7C985A3C243FCA5C7C985A3C243 ∧
  ∀ s k, s.phase ≠ .rejected → k = CipherKey.two (s.kek.extractLsb' 64 64) (s.kek.extractLsb' 0 64) →
    (missing (vKbit ||| vKc ||| vKek) false s ≠ 0 →
      Raises .wrapKeys s .operandInvalid (missing (vKbit ||| vKc ||| vKek) false s)) ∧
    (Ready (vKbit ||| vKc ||| vKek) false s → exec .wrapKeys s = .next { s with
      kbit := ofBytes 128 (cbcEnc k 0 (slice (bytesOf 16 s.kbit) 0 8) ++ cbcEnc k 0 (slice (bytesOf 16 s.kbit) 8 8)),
      kc := ofBytes 128 (cbcEnc k 0 (slice (bytesOf 16 s.kc) 0 8) ++ cbcEnc k 0 (slice (bytesOf 16 s.kc) 8 8)) })

/-! ## The signature engine (spec/43_signature_engine.md) -/

/-- R170 with R165: `MAC3`, the three-step scheme spelled on byte strings. -/
def Obligations.Mac3FollowsItsRule : Prop :=
  decode 0x00000030 = .ok .mac3 ∧
  mac3 testKeys testBlock1 = 0x4B4C9B28FAEABFC0 ∧
  ∀ s c, s.phase ≠ .rejected → c = cbcEnc (.one s.ks.sigMaster) 0 (s.mem.read s.a0.toNat s.a2.toNat) →
    (missing 0 true s ≠ 0 → Raises .mac3 s .operandInvalid (missing 0 true s)) ∧
    (Ready 0 true s → ¬ (s.a2.toNat % 8 = 0 ∧ 8 ≤ s.a2.toNat) → Raises .mac3 s .lengthError s.a2) ∧
    (Ready 0 true s → s.a2.toNat % 8 = 0 → 8 ≤ s.a2.toNat → ¬ Fits s s.a0.toNat s.a2.toNat →
      Raises .mac3 s .accessFault s.a0) ∧
    (Ready 0 true s → s.a2.toNat % 8 = 0 → 8 ≤ s.a2.toNat → Fits s s.a0.toNat s.a2.toNat →
      exec .mac3 s = .next { s with
        sig := desEnc s.ks.sigMaster (desDec s.ks.sigHash (lastEight c)), valid := s.valid ||| 0x080 })

/-- R171 with R166: `FOLDSIG`, the fold scheme. -/
def Obligations.FoldSigFollowsItsRule : Prop :=
  decode 0x00000031 = .ok .foldSig ∧
  fold 0 testBlock0 = 0xE080000000A02000 ∧ foldSig testKeys testBlock0 = 0x810640A988B7A2EA ∧
  ∀ s d, s.phase ≠ .rejected → d = fold 0 (s.mem.read s.a0.toNat s.a2.toNat) →
    (missing 0 true s ≠ 0 → Raises .foldSig s .operandInvalid (missing 0 true s)) ∧
    (Ready 0 true s → s.a2.toNat % 8 ≠ 0 → Raises .foldSig s .lengthError s.a2) ∧
    (Ready 0 true s → s.a2.toNat % 8 = 0 → ¬ Fits s s.a0.toNat s.a2.toNat → Raises .foldSig s .accessFault s.a0) ∧
    (Ready 0 true s → s.a2.toNat % 8 = 0 → Fits s s.a0.toNat s.a2.toNat →
      exec .foldSig s = .next { s with
        sig := desEnc s.ks.sigMaster (desDec s.ks.sigHash (desEnc s.ks.sigMaster d)), valid := s.valid ||| 0x080 })

/-- R172: `SIG_HEADER` leaves `Mac3(HDR)` in `SIG`. -/
def Obligations.SigHeaderFollowsItsRule : Prop :=
  decode 0x00000032 = .ok .sigHeader ∧
  mac3 testKeys (bytesOf 32 testHdr) = 0x88454B361C313CC6 ∧
  ∀ s c, s.phase ≠ .rejected → c = cbcEnc (.one s.ks.sigMaster) 0 (bytesOf 32 s.hdr) →
    (missing vHdr true s ≠ 0 → Raises .sigHeader s .operandInvalid (missing vHdr true s)) ∧
    (Ready vHdr true s → exec .sigHeader s = .next { s with
      sig := desEnc s.ks.sigMaster (desDec s.ks.sigHash (lastEight c)), valid := s.valid ||| 0x080 })

/-- R173 with R167: `SIG_TABLE`, the seed from the working keys' halves spelled out. -/
def Obligations.SigTableFollowsItsRule : Prop :=
  decode 0x00000033 = .ok .sigTable ∧
  tableSig testKeys testKbit testKc testTableBytes = 0x76344B056AD98C0C ∧
  ∀ s b1 b2 c1 c2 d, s.phase ≠ .rejected →
    b1 = s.kbit.extractLsb' 64 64 → b2 = s.kbit.extractLsb' 0 64 →
    c1 = s.kc.extractLsb' 64 64 → c2 = s.kc.extractLsb' 0 64 →
    d = fold (((b1 ^^^ if b1 ≠ b2 then b2 else 0) ^^^ c1) ^^^ if c1 ≠ c2 then c2 else 0)
      (s.tbl.read 0 ((tCount s.tbl * 2 + 1) * 8)) →
    (missing (vKbit ||| vKc ||| vTbl) true s ≠ 0 →
      Raises .sigTable s .operandInvalid (missing (vKbit ||| vKc ||| vTbl) true s)) ∧
    (Ready (vKbit ||| vKc ||| vTbl) true s → 256 < tCount s.tbl →
      Raises .sigTable s .invalidBitTableSize (BitVec.ofNat 32 (tCount s.tbl))) ∧
    (Ready (vKbit ||| vKc ||| vTbl) true s → tCount s.tbl ≤ 256 → exec .sigTable s = .next { s with
      sig := desEnc s.ks.sigMaster (desDec s.ks.sigHash (desEnc s.ks.sigMaster d)), valid := s.valid ||| 0x080 })

/-- R174 with R168: `SIG_ROOT`, the message spelled as bytes. -/
def Obligations.SigRootFollowsItsRule : Prop :=
  decode 0x00000034 = .ok .sigRoot ∧
  rootSig testKeys 0x88454B361C313CC6 0x76344B056AD98C0C (Memory.write [] 0 testTableBytes) = 0x232006880DF18F99 ∧
  ∀ s m t h1 h2, s.phase ≠ .rejected →
    m = bytesOf 8 s.hsig ++ bytesOf 8 s.tsig ++
      (((List.range (tCount s.tbl)).filter fun i => isSigned s.tbl i).flatMap fun i => s.tbl.read (16 + 16 * i) 8) →
    t = lastEight (cbcEnc (.one s.ks.rootMaster) 0 m) →
    h1 = s.ks.rootHash.extractLsb' 64 64 → h2 = s.ks.rootHash.extractLsb' 0 64 →
    (missing (vHsig ||| vTsig ||| vTbl) true s ≠ 0 →
      Raises .sigRoot s .operandInvalid (missing (vHsig ||| vTsig ||| vTbl) true s)) ∧
    (Ready (vHsig ||| vTsig ||| vTbl) true s → 256 < tCount s.tbl →
      Raises .sigRoot s .invalidBitTableSize (BitVec.ofNat 32 (tCount s.tbl))) ∧
    (Ready (vHsig ||| vTsig ||| vTbl) true s → tCount s.tbl ≤ 256 → exec .sigRoot s = .next { s with
      sig := desDec h1 (desEnc h2 (desDec h1 t)), valid := s.valid ||| 0x080 })

/-- R175 with R169 and R177: `SIG_BLOCK`, the scheme chosen by the ENCRYPTED flag alone. -/
def Obligations.SigBlockFollowsItsRule : Prop :=
  decode 0x00000035 = .ok .sigBlock ∧
  foldSig testKeys testBlock0 = 0x810640A988B7A2EA ∧ mac3 testKeys testBlock1 = 0x4B4C9B28FAEABFC0 ∧
  ∀ s i data, s.phase ≠ .rejected → i = s.a0.toNat →
    data = s.mem.read (s.contbase.toNat + blockOffset s.tbl i) (dSize s.tbl i) →
    (missing vTbl true s ≠ 0 → Raises .sigBlock s .operandInvalid (missing vTbl true s)) ∧
    (Ready vTbl true s →
      (256 < tCount s.tbl → Raises .sigBlock s .invalidBitTableSize (BitVec.ofNat 32 (tCount s.tbl))) ∧
      (tCount s.tbl ≤ 256 →
        (tCount s.tbl ≤ i → Raises .sigBlock s .accessFault s.a0) ∧
        (i < tCount s.tbl →
          (¬ Fits s s.contbase.toNat (totalSize s.tbl) → Raises .sigBlock s .accessFault s.contbase) ∧
          (Fits s s.contbase.toNat (totalSize s.tbl) →
            (dSize s.tbl i % 8 ≠ 0 ∨ (isEncrypted s.tbl i = false ∧ dSize s.tbl i < 8) →
              Raises .sigBlock s .lengthError s.a0) ∧
            (dSize s.tbl i % 8 = 0 → isEncrypted s.tbl i = true →
              exec .sigBlock s = .next { s with sig := foldSig s.ks data, valid := s.valid ||| 0x080 }) ∧
            (dSize s.tbl i % 8 = 0 → 8 ≤ dSize s.tbl i → isEncrypted s.tbl i = false →
              exec .sigBlock s = .next { s with sig := mac3 s.ks data, valid := s.valid ||| 0x080 })))))

/-- R176 with R177: `SIGN_BLOCKS` stores the signature of every SIGNED block in its descriptor, and changes no other
byte of `TBL`; the first block in table order of a length its scheme does not take raises. -/
def Obligations.SignBlocksFollowsItsRule : Prop :=
  decode 0x00000036 = .ok .signBlocks ∧
  foldSig testKeys testBlock0 = 0x810640A988B7A2EA ∧ mac3 testKeys testBlock1 = 0x4B4C9B28FAEABFC0 ∧
  ∀ s, s.phase ≠ .rejected →
    (missing vTbl true s ≠ 0 → Raises .signBlocks s .operandInvalid (missing vTbl true s)) ∧
    (Ready vTbl true s →
      (256 < tCount s.tbl → Raises .signBlocks s .invalidBitTableSize (BitVec.ofNat 32 (tCount s.tbl))) ∧
      (tCount s.tbl ≤ 256 → ¬ Fits s s.contbase.toNat (totalSize s.tbl) →
        Raises .signBlocks s .accessFault s.contbase) ∧
      (tCount s.tbl ≤ 256 → Fits s s.contbase.toNat (totalSize s.tbl) →
        (∀ i < tCount s.tbl, isSigned s.tbl i = true → blockLenOk s.tbl i = false →
          (∀ j < i, isSigned s.tbl j = true → blockLenOk s.tbl j = true) →
          Raises .signBlocks s .lengthError (BitVec.ofNat 32 i)) ∧
        ((∀ i < tCount s.tbl, isSigned s.tbl i = true → blockLenOk s.tbl i = true) → s.tbl.wf = true →
          ∃ m, exec .signBlocks s = .next { s with tbl := m } ∧
            (∀ i < tCount s.tbl, isSigned s.tbl i = true → dSig m i =
              if isEncrypted s.tbl i = true then foldSig s.ks (blockData s i) else mac3 s.ks (blockData s i)) ∧
            (∀ x, (∀ i < tCount s.tbl, isSigned s.tbl i = true → ¬ (16 + 16 * i ≤ x ∧ x < 16 + 16 * i + 8)) →
              m.get x = s.tbl.get x))))

/-! ## The load and save sequencer (spec/44_load_save_sequencer.md) -/

/-- R191: `LD_HEADER`, its checks in order and its one write. -/
def Obligations.LdHeaderFollowsItsRule : Prop :=
  decode 0x00000040 = .ok .ldHeader ∧
  mac3 testKeys (bytesOf 32 testHdr) = 0x88454B361C313CC6 ∧
  ∀ s, (s.phase ≠ .unloaded → s.phase ≠ .rejected →
      Raises .ldHeader s .sequenceError (BitVec.ofNat 32 s.phase.code)) ∧
    (s.phase = .unloaded → missing (vHdr ||| vHsig) true s ≠ 0 →
      Raises .ldHeader s .operandInvalid (missing (vHdr ||| vHsig) true s)) ∧
    (s.phase = .unloaded → Ready (vHdr ||| vHsig) true s →
      (hdrFlags s.hdr % 2 = 1 ∨ hdrBitCount s.hdr ≠ 0 →
        Raises .ldHeader s .unsupportedVariant (BitVec.ofNat 32 (hdrFlags s.hdr + 65536 * hdrBitCount s.hdr))) ∧
      (hdrFlags s.hdr % 2 = 0 → hdrBitCount s.hdr = 0 → mac3 s.ks (bytesOf 32 s.hdr) ≠ s.hsig →
        Raises .ldHeader s .invalidHeaderSignature 0) ∧
      (hdrFlags s.hdr % 2 = 0 → hdrBitCount s.hdr = 0 → mac3 s.ks (bytesOf 32 s.hdr) = s.hsig →
        exec .ldHeader s = .next { s with phase := .headerRead }))

/-- R192: `LD_KEYS` derives the KEK from the header and unwraps both working keys with it. -/
def Obligations.LdKeysFollowsItsRule : Prop :=
  decode 0x00000041 = .ok .ldKeys ∧
  unwrap16 (deriveKek testKeys testHdr) 0xB067900802F051DB54C3161B974AFC3A = testKbit ∧
  ∀ s, (s.phase ≠ .headerRead → s.phase ≠ .rejected →
      Raises .ldKeys s .sequenceError (BitVec.ofNat 32 s.phase.code)) ∧
    (s.phase = .headerRead → missing (vHdr ||| vKbit ||| vKc) true s ≠ 0 →
      Raises .ldKeys s .operandInvalid (missing (vHdr ||| vKbit ||| vKc) true s)) ∧
    (s.phase = .headerRead → Ready (vHdr ||| vKbit ||| vKc) true s →
      exec .ldKeys s = .next { s with
        kek := deriveKek s.ks s.hdr, kbit := unwrap16 (deriveKek s.ks s.hdr) s.kbit,
        kc := unwrap16 (deriveKek s.ks s.hdr) s.kc, valid := s.valid ||| 0x010, phase := .keysUnwrapped })

/-- R193 with R196: `LD_TABLE`, the budget `HeaderSize - 88` and its checks, the decryption, the count check, the two
signatures, and the decrypted table in `TBL` with every byte from the budget up unchanged. -/
def Obligations.LdTableFollowsItsRule : Prop :=
  decode 0x00000042 = .ok .ldTable ∧
  cbcDec (.two (testKbit.extractLsb' 64 64) (testKbit.extractLsb' 0 64)) testKeys.tableIv testTableCipher =
    testTableBytes ∧
  ∀ s budget tb c m, budget = hdrHeaderSize s.hdr - 88 →
    tb = cbcDec (.two (s.kbit.extractLsb' 64 64) (s.kbit.extractLsb' 0 64)) s.ks.tableIv (s.tbl.read 0 budget) →
    c = leNat (slice tb 4 4) → m = s.tbl.write 0 tb →
    (s.phase ≠ .keysUnwrapped → s.phase ≠ .rejected →
      Raises .ldTable s .sequenceError (BitVec.ofNat 32 s.phase.code)) ∧
    (s.phase = .keysUnwrapped → missing (vHdr ||| vHsig ||| vKbit ||| vKc) true s ≠ 0 →
      Raises .ldTable s .operandInvalid (missing (vHdr ||| vHsig ||| vKbit ||| vKc) true s)) ∧
    (s.phase = .keysUnwrapped → Ready (vHdr ||| vHsig ||| vKbit ||| vKc) true s →
      (hdrHeaderSize s.hdr < 96 ∨ 4192 < hdrHeaderSize s.hdr →
        Raises .ldTable s .invalidBitTableSize (BitVec.ofNat 32 (hdrHeaderSize s.hdr + 4294967296 - 88))) ∧
      (96 ≤ hdrHeaderSize s.hdr → hdrHeaderSize s.hdr ≤ 4192 →
        (budget % 8 ≠ 0 → Raises .ldTable s .lengthError (BitVec.ofNat 32 budget)) ∧
        (budget % 8 = 0 → missing (vTbl ||| vTsig ||| vRsig) false s ≠ 0 →
          Raises .ldTable s .operandInvalid (missing (vTbl ||| vTsig ||| vRsig) false s)) ∧
        (budget % 8 = 0 → Ready (vTbl ||| vTsig ||| vRsig) false s →
          (256 < c ∨ budget < (c * 2 + 1) * 8 → Raises .ldTable s .invalidBitTableSize (BitVec.ofNat 32 c)) ∧
          (c ≤ 256 → (c * 2 + 1) * 8 ≤ budget →
            (tableSig s.ks s.kbit s.kc (m.read 0 ((c * 2 + 1) * 8)) ≠ s.tsig →
              Raises .ldTable s .invalidBitTableSignature 0) ∧
            (tableSig s.ks s.kbit s.kc (m.read 0 ((c * 2 + 1) * 8)) = s.tsig →
              rootSig s.ks s.hsig s.tsig m ≠ s.rsig → Raises .ldTable s .invalidRootSignature 0) ∧
            (tableSig s.ks s.kbit s.kc (m.read 0 ((c * 2 + 1) * 8)) = s.tsig →
              rootSig s.ks s.hsig s.tsig m = s.rsig → s.tbl.wf = true →
              exec .ldTable s = .next { s with tbl := m, phase := .tableVerified } ∧
                Stores s.tbl m 0 budget tb)))))

/-- R194: `LD_CONTENT` is `ContentCipher(decrypt)` in phase `TableVerified`, and moves `PHASE` on success. -/
def Obligations.LdContentFollowsItsRule : Prop :=
  (∀ s, s.phase ≠ .tableVerified → s.phase ≠ .rejected →
    Raises .ldContent s .sequenceError (BitVec.ofNat 32 s.phase.code)) ∧
  ContentRule 0x00000043 .ldContent cbcDec (fun p => p = .tableVerified) fun t => { t with phase := .contentDecrypted }

/-- R195: `LD_VERIFY` reports the first SIGNED block, in table order, whose length or signature is wrong, and else moves
`PHASE` to `Verified`; it writes nothing else. -/
def Obligations.LdVerifyFollowsItsRule : Prop :=
  decode 0x00000044 = .ok .ldVerify ∧
  ∀ s, (s.phase ≠ .contentDecrypted → s.phase ≠ .rejected →
      Raises .ldVerify s .sequenceError (BitVec.ofNat 32 s.phase.code)) ∧
    (s.phase = .contentDecrypted → missing vTbl true s ≠ 0 →
      Raises .ldVerify s .operandInvalid (missing vTbl true s)) ∧
    (s.phase = .contentDecrypted → Ready vTbl true s →
      (256 < tCount s.tbl → Raises .ldVerify s .invalidBitTableSize (BitVec.ofNat 32 (tCount s.tbl))) ∧
      (tCount s.tbl ≤ 256 → ¬ Fits s s.contbase.toNat (totalSize s.tbl) →
        Raises .ldVerify s .accessFault s.contbase) ∧
      (tCount s.tbl ≤ 256 → Fits s s.contbase.toNat (totalSize s.tbl) →
        (∀ i < tCount s.tbl, isSigned s.tbl i = true →
          (∀ j < i, isSigned s.tbl j = true → blockLenOk s.tbl j = true ∧ blockSig s j = dSig s.tbl j) →
          (blockLenOk s.tbl i = false → Raises .ldVerify s .lengthError (BitVec.ofNat 32 i)) ∧
          (blockLenOk s.tbl i = true → blockSig s i ≠ dSig s.tbl i →
            Raises .ldVerify s .invalidContentSignature (BitVec.ofNat 32 i))) ∧
        ((∀ i < tCount s.tbl, isSigned s.tbl i = true →
            blockLenOk s.tbl i = true ∧ blockSig s i = dSig s.tbl i) →
          exec .ldVerify s = .next { s with phase := .verified })))

/-- R198: `SV_SEAL` computes everything from the state before it and writes the three signatures, the KEK, the wrapped
keys and the encrypted table; `PHASE`, MEM and every other register are unchanged. -/
def Obligations.SvSealFollowsItsRule : Prop :=
  decode 0x00000048 = .ok .svSeal ∧
  rootSig testKeys 0x88454B361C313CC6 0x76344B056AD98C0C (Memory.write [] 0 testTableBytes) = 0x232006880DF18F99 ∧
  wrap16 (deriveKek testKeys testHdr) testKbit = 0xB067900802F051DB54C3161B974AFC3A ∧
  ∀ s nb hs ts kek, s.phase ≠ .rejected → nb = (tCount s.tbl * 2 + 1) * 8 →
    hs = mac3 s.ks (bytesOf 32 s.hdr) → ts = tableSig s.ks s.kbit s.kc (s.tbl.read 0 nb) →
    kek = deriveKek s.ks s.hdr →
    (missing (vHdr ||| vKbit ||| vKc ||| vTbl) true s ≠ 0 →
      Raises .svSeal s .operandInvalid (missing (vHdr ||| vKbit ||| vKc ||| vTbl) true s)) ∧
    (Ready (vHdr ||| vKbit ||| vKc ||| vTbl) true s → 256 < tCount s.tbl →
      Raises .svSeal s .invalidBitTableSize (BitVec.ofNat 32 (tCount s.tbl))) ∧
    (Ready (vHdr ||| vKbit ||| vKc ||| vTbl) true s → tCount s.tbl ≤ 256 → s.tbl.wf = true →
      ∃ m, exec .svSeal s = .next { s with
          hsig := hs, tsig := ts, rsig := rootSig s.ks hs ts s.tbl, kek := kek,
          kbit := wrap16 kek s.kbit, kc := wrap16 kek s.kc, tbl := m, valid := s.valid ||| 0x072 } ∧
        Stores s.tbl m 0 nb
          (cbcEnc (.two (s.kbit.extractLsb' 64 64) (s.kbit.extractLsb' 0 64)) s.ks.tableIv (s.tbl.read 0 nb)))

/-! ## The table and content pipeline (spec/45_table_content_pipeline.md) -/

/-- R216: `TABLE_DEC` decrypts the first `A[2]` bytes of `TBL` in place. -/
def Obligations.TableDecFollowsItsRule : Prop :=
  decode 0x00000050 = .ok .tableDec ∧
  cbcDec (.two (testKbit.extractLsb' 64 64) (testKbit.extractLsb' 0 64)) testKeys.tableIv testTableCipher =
    testTableBytes ∧
  ∀ s, s.phase ≠ .rejected →
    (missing (vKbit ||| vTbl) true s ≠ 0 →
      Raises .tableDec s .operandInvalid (missing (vKbit ||| vTbl) true s)) ∧
    (Ready (vKbit ||| vTbl) true s → 4104 < s.a2.toNat → Raises .tableDec s .invalidBitTableSize s.a2) ∧
    (Ready (vKbit ||| vTbl) true s → s.a2.toNat ≤ 4104 → s.a2.toNat % 8 ≠ 0 →
      Raises .tableDec s .lengthError s.a2) ∧
    (Ready (vKbit ||| vTbl) true s → s.a2.toNat ≤ 4104 → s.a2.toNat % 8 = 0 → s.tbl.wf = true →
      ∃ m, exec .tableDec s = .next { s with tbl := m } ∧
        Stores s.tbl m 0 s.a2.toNat
          (cbcDec (.two (s.kbit.extractLsb' 64 64) (s.kbit.extractLsb' 0 64)) s.ks.tableIv
            (s.tbl.read 0 s.a2.toNat)))

/-- R217: `TABLE_ENC` encrypts the first `TableBytes` bytes of `TBL` in place. -/
def Obligations.TableEncFollowsItsRule : Prop :=
  decode 0x00000051 = .ok .tableEnc ∧
  cbcEnc (.two (testKbit.extractLsb' 64 64) (testKbit.extractLsb' 0 64)) testKeys.tableIv testTableBytes =
    testTableCipher ∧
  ∀ s nb, s.phase ≠ .rejected → nb = (tCount s.tbl * 2 + 1) * 8 →
    (missing (vKbit ||| vTbl) true s ≠ 0 →
      Raises .tableEnc s .operandInvalid (missing (vKbit ||| vTbl) true s)) ∧
    (Ready (vKbit ||| vTbl) true s → 256 < tCount s.tbl →
      Raises .tableEnc s .invalidBitTableSize (BitVec.ofNat 32 (tCount s.tbl))) ∧
    (Ready (vKbit ||| vTbl) true s → tCount s.tbl ≤ 256 → s.tbl.wf = true →
      ∃ m, exec .tableEnc s = .next { s with tbl := m } ∧
        Stores s.tbl m 0 nb
          (cbcEnc (.two (s.kbit.extractLsb' 64 64) (s.kbit.extractLsb' 0 64)) s.ks.tableIv (s.tbl.read 0 nb)))

/-- R219: `CONTENT_DEC` is `ContentCipher(decrypt)` in every phase but `Rejected`, with `PHASE` unchanged. -/
def Obligations.ContentDecFollowsItsRule : Prop :=
  ContentRule 0x00000052 .contentDec cbcDec (fun p => p ≠ .rejected) fun t => t

/-- R220: `CONTENT_ENC` is `ContentCipher(encrypt)` in every phase but `Rejected`, with `PHASE` unchanged. -/
def Obligations.ContentEncFollowsItsRule : Prop :=
  ContentRule 0x00000053 .contentEnc cbcEnc (fun p => p ≠ .rejected) (fun t => t) ∧
  contentKn testHdr = 2 ∧
  cbcEnc (.two (testKc.extractLsb' 64 64) (testKc.extractLsb' 0 64)) testKeys.contentIv testBlock0 =
    bytesOf 32 (0xF70BC20C37F3CE516C6E60BF53602277DE1BE8963B47D7FC63D48F413B37C38C : BitVec 256)

/-! ## Laws of the cryptography -/

/-- R120: decryption inverts encryption under every key, both ways. -/
def Obligations.DesDecInvertsDesEnc : Prop :=
  ∀ k b : Block, desDec k (desEnc k b) = b ∧ desEnc k (desDec k b) = b

/-- The least significant bit of every key byte does not enter the DES function. -/
def Obligations.DesIgnoresKeyParityBits : Prop :=
  ∀ k k' b : Block, k &&& 0xFEFEFEFEFEFEFEFE = k' &&& 0xFEFEFEFEFEFEFEFE →
    desEnc k b = desEnc k' b ∧ desDec k b = desDec k' b

/-- R122: the worked examples of the block function, in both directions. -/
def Obligations.DesWorkedExamples : Prop :=
  DesExample 0x133457799BBCDFF1 0x0123456789ABCDEF 0x85E813540F0AB405 ∧
  DesExample 0x0101010101010101 0x8000000000000000 0x95F8A5E5DD31D900 ∧
  DesExample 0x0000000000000000 0x0000000000000000 0x8CA64DE9C1B123A7 ∧
  DesExample 0x0101010101010101 0x0000000000000000 0x8CA64DE9C1B123A7 ∧
  DesExample 0xFFFFFFFFFFFFFFFF 0xFFFFFFFFFFFFFFFF 0x7359B2163E4EDC58 ∧
  DesExample 0xAAAAAAAAAAAAAAAA 0x0000000000000000 0xC33F4517DD950A2E ∧
  DesExample 0x0123456789ABCDEF 0x4E6F772069732074 0x3FA40E8A984D4815

/-- R131 to R134 and R142: the block operation of one, two and three sub-keys in passes of DES, on the sub-keys that the
first 8, 16 or 24 bytes of a key string spell; CBC on the empty string and on a first block, with the next chaining
value, for every IV; that CBC decryption inverts CBC encryption on every byte string of whole units, both ways; and that
on one block with a zero IV the mode disappears. -/
def Obligations.CbcDecInvertsCbcEnc : Prop :=
  (∀ (keys : BitVec 192) (k1 k2 k3 b : Block) k,
    bytesOf 24 keys = bytesOf 8 k1 ++ bytesOf 8 k2 ++ bytesOf 8 k3 →
    (SelectsKey 1 keys k → blockEnc k b = desEnc k1 b ∧ blockDec k b = desDec k1 b) ∧
    (SelectsKey 2 keys k → blockEnc k b = desEnc k1 (desDec k2 (desEnc k1 b)) ∧
      blockDec k b = desDec k1 (desEnc k2 (desDec k1 b))) ∧
    (SelectsKey 3 keys k → blockEnc k b = desEnc k3 (desDec k2 (desEnc k1 b)) ∧
      blockDec k b = desDec k1 (desEnc k2 (desDec k3 b)))) ∧
  (∀ k iv, cbcEnc k iv [] = [] ∧ cbcDec k iv [] = [] ∧
    ∀ (b : Block) rest,
      cbcEnc k iv (bytesOf 8 b ++ rest) =
        bytesOf 8 (blockEnc k (b ^^^ iv)) ++ cbcEnc k (blockEnc k (b ^^^ iv)) rest ∧
      cbcDec k iv (bytesOf 8 b ++ rest) = bytesOf 8 (blockDec k b ^^^ iv) ++ cbcDec k b rest) ∧
  (∀ k iv data, data.length % 8 = 0 → cbcDec k iv (cbcEnc k iv data) = data ∧ cbcEnc k iv (cbcDec k iv data) = data) ∧
  (∀ k (b : Block), cbcEnc k 0 (bytesOf 8 b) = bytesOf 8 (blockEnc k b) ∧
    cbcDec k 0 (bytesOf 8 b) = bytesOf 8 (blockDec k b))

/-- R139: a CBC stream split into two commands gives the same bytes when the IV of the second is the last ciphertext
block of the first. -/
def Obligations.CbcStreamCanBeSplit : Prop :=
  ∀ k iv a b, a.length % 8 = 0 → b.length % 8 = 0 → a ≠ [] →
    cbcEnc k iv (a ++ b) = cbcEnc k iv a ++ cbcEnc k (lastEight (cbcEnc k iv a)) b ∧
    cbcDec k iv (a ++ b) = cbcDec k iv a ++ cbcDec k (lastEight a) b

/-- R157: wrapping and unwrapping a key are inverse under every KEK, and so are the two commands on the whole state. -/
def Obligations.WrapAndUnwrapAreInverse : Prop :=
  (∀ kek k : BitVec 128, unwrap16 kek (wrap16 kek k) = k ∧ wrap16 kek (unwrap16 kek k) = k) ∧
  (∀ s, Ready (vKbit ||| vKc ||| vKek) false s →
    execAll [.wrapKeys, .unwrapKeys] s = .next s ∧ execAll [.unwrapKeys, .wrapKeys] s = .next s)

/-- The XOR-fold does not see the order of the units, and two messages have the same fold signature exactly when they
have the same digest. -/
def Obligations.FoldSignatureSeesOnlyTheXor : Prop :=
  (∀ d us vs, List.Perm us vs → fold d (bytesOfBlocks us) = fold d (bytesOfBlocks vs)) ∧
  (∀ ks m m', foldSig ks m = foldSig ks m' ↔ fold 0 m = fold 0 m') ∧
  (∀ ks kbit kc m m', tableSig ks kbit kc m = tableSig ks kbit kc m' ↔ fold 0 m = fold 0 m')

/-- Changing a message in one unit always changes its three-step signature. -/
def Obligations.Mac3SeesEveryOneUnitChange : Prop :=
  ∀ ks pre post (u v : Block), u ≠ v →
    mac3 ks (bytesOfBlocks (pre ++ u :: post)) ≠ mac3 ks (bytesOfBlocks (pre ++ v :: post))

/-! ## Round trips over commands -/

/-- `TABLE_ENC` followed by `TABLE_DEC` with `A[2] = TableBytes` restores the whole state. -/
def Obligations.TableEncThenDecRestores : Prop :=
  ∀ s, Ready (vKbit ||| vTbl) true s → tCount s.tbl ≤ 256 → s.a2.toNat = tableBytes s.tbl → s.tbl.wf = true →
    execAll [.tableEnc, .tableDec] s = .next s

/-- `CONTENT_ENC` followed by `CONTENT_DEC`, and the reverse, restores the whole state, MEM included, from every state in
which both pass their checks: a table with no ENCRYPTED block asks nothing of the selector. -/
def Obligations.ContentEncAndDecRestore : Prop :=
  ∀ s, Ready (vHdr ||| vKc ||| vTbl) true s → s.mem.wf = true → tCount s.tbl ≤ 256 →
    Fits s s.contbase.toNat (totalSize s.tbl) →
    (∀ j < tCount s.tbl, isEncrypted s.tbl j = true → dSize s.tbl j % 8 = 0 ∧ contentKn s.hdr ≠ 0) →
    execAll [.contentEnc, .contentDec] s = .next s ∧ execAll [.contentDec, .contentEnc] s = .next s

/-- A container that is signed, encrypted and sealed loads: from a state that holds plain content, a plain table and
unwrapped keys, with `HeaderSize = 88 + TableBytes`, the save commands followed by the five gates reach `Verified`, with
MEM, the working keys and the header as they were and the signed plain table in `TBL`. The registers themselves carry
the container between the two halves. -/
def Obligations.SavedContainerLoadsBack : Prop :=
  ∀ s, s.phase = .unloaded → Ready (vHdr ||| vKbit ||| vKc ||| vTbl) true s → s.mem.wf = true → s.tbl.wf = true →
    tCount s.tbl ≤ 256 → Fits s s.contbase.toNat (totalSize s.tbl) →
    hdrFlags s.hdr % 2 = 0 → hdrBitCount s.hdr = 0 → hdrHeaderSize s.hdr = 88 + tableBytes s.tbl →
    (∀ j < tCount s.tbl, isEncrypted s.tbl j = true → dSize s.tbl j % 8 = 0 ∧ contentKn s.hdr ≠ 0) →
    (∀ j < tCount s.tbl, isSigned s.tbl j = true → blockLenOk s.tbl j = true) →
    ∃ t, execAll [.signBlocks, .contentEnc, .svSeal, .ldHeader, .ldKeys, .ldTable, .ldContent, .ldVerify] s = .next t ∧
      t.phase = .verified ∧ t.mem = s.mem ∧ t.hdr = s.hdr ∧ t.kbit = s.kbit ∧ t.kc = s.kc ∧ t.tbl = signTable s

/-- Tampering with an authentic header, header signature or SIGNED block is caught by the gate that checks it: a flipped
header bit gives `UnsupportedVariant` where it hits flags bit 0 or the bit count and `InvalidHeaderSignature` elsewhere;
a changed header signature gives `InvalidHeaderSignature`; a changed plaintext byte of SIGNED block `i` gives
`InvalidContentSignature(i)`. Of an ENCRYPTED block the change is one flipped bit, because R179 lets a model claim no more
than the single-bit property there; of any other SIGNED block it is any change of one byte. -/
def Obligations.TamperingIsCaughtAtTheGates : Prop :=
  (∀ s, s.phase = .unloaded → Ready (vHdr ||| vHsig) true s → hdrFlags s.hdr % 2 = 0 → hdrBitCount s.hdr = 0 →
    mac3 s.ks (bytesOf 32 s.hdr) = s.hsig →
    (∀ n < 256, (n = 56 ∨ (32 ≤ n ∧ n < 48)) →
      ∃ w, Raises .ldHeader { s with hdr := s.hdr ^^^ (1#256 <<< n) } .unsupportedVariant w) ∧
    (∀ n < 256, n ≠ 56 → ¬ (32 ≤ n ∧ n < 48) →
      Raises .ldHeader { s with hdr := s.hdr ^^^ (1#256 <<< n) } .invalidHeaderSignature 0) ∧
    (∀ v, v ≠ s.hsig → Raises .ldHeader { s with hsig := v } .invalidHeaderSignature 0)) ∧
  (∀ s i x v, s.phase = .contentDecrypted → Ready vTbl true s → s.mem.wf = true → tCount s.tbl ≤ 256 →
    Fits s s.contbase.toNat (totalSize s.tbl) →
    (∀ j < tCount s.tbl, isSigned s.tbl j = true → blockLenOk s.tbl j = true ∧ blockSig s j = dSig s.tbl j) →
    i < tCount s.tbl → isSigned s.tbl i = true → s.contbase.toNat + blockOffset s.tbl i ≤ x →
    x < s.contbase.toNat + blockOffset s.tbl i + dSize s.tbl i → v ≠ s.mem.get x →
    (isEncrypted s.tbl i = true → ∃ b < 8, v = s.mem.get x ^^^ (1#8 <<< b)) →
    Raises .ldVerify { s with mem := s.mem.set x v } .invalidContentSignature (BitVec.ofNat 32 i))

/-! ## Invariants that every step keeps -/

/-- Every step keeps MEM and `TBL` in canonical form and inside their address spaces. The sparse form is the model's
(assumption log 1). -/
def Obligations.StepKeepsMemoriesOk : Prop :=
  ∀ s t, memoriesOk s = true → step s = .next t → memoriesOk t = true

/-- Every step keeps: a data register or `TBL` whose valid bit is clear holds zero bytes. -/
def Obligations.StepKeepsInvalidZero : Prop :=
  ∀ s t, invalidIsZero s = true → step s = .next t → invalidIsZero t = true

/-- Every step keeps: `ERR` names one of the errors the engine raises exactly in `Rejected`, where nothing is valid, and
`ERR` and `ERRINFO` are 0 outside it. -/
def Obligations.StepKeepsErrorRecord : Prop :=
  ∀ s t, errorRecordOk s = true → step s = .next t → errorRecordOk t = true

/-- Every step keeps: a locked key store is complete and an absent slot is zero; and a locked key store never changes
but by reset. -/
def Obligations.StepKeepsKeyStore : Prop :=
  (∀ s t, keyStoreOk s = true → step s = .next t → keyStoreOk t = true) ∧
  (∀ s t x rest, s.inbox = x :: rest → isReset x = false → s.kslock = true → step s = .next t →
    t.ks = s.ks ∧ t.kspresent = s.kspresent ∧ t.kslock = true)

/-- The state after reset, with any parameters and any canonical MEM inside them, meets every invariant, and so does
`State.reset`. -/
def Obligations.ResetMeetsTheInvariants : Prop :=
  safeState State.reset = true ∧
  ∀ (p : Params) (m : Memory), m.wf = true → m.below p.memSize.val = true → safeState (State.resetWith p m) = true
end

