-- ==== Sys2Proof/Laws/Bytes.lean ====
section
/-! SUPPORT. The laws of byte strings: a fixed-length string and the list of its bytes determine each other, a byte string
whose length is a multiple of 8 and the list of its 8-byte units determine each other, and the lengths that CBC and the
XOR keep; and what one bit of a permuted string is. -/

namespace Sys2Proof.Machine

open Sys2Proof

/-! ## Fixed-length strings -/

@[simp] theorem bytesOf_length {w n : Nat} (x : BitVec w) : (bytesOf n x).length = n := by simp [bytesOf]

/-- The first byte of a string, and the rest. -/
theorem bytesOf_succ {w n : Nat} (x : BitVec w) :
    bytesOf (n + 1) x = x.extractLsb' (8 * n) 8 :: bytesOf n x := by
  simp only [bytesOf, List.range_succ_eq_map, List.map_cons, List.map_map]
  congr 1
  refine List.map_congr_left fun i _ => ?_
  simp only [Function.comp]
  congr 2
  omega

/-- The digits before a byte string count by its length. -/
theorem packBytes_acc (l : Bytes) (acc : Nat) : packBytes l acc = acc * 256 ^ l.length + packBytes l 0 := by
  induction l generalizing acc with
  | nil => simp [packBytes]
  | cons b bs ih =>
    rw [packBytes, ih, packBytes, ih (256 * 0 + b.toNat), List.length_cons, pow_succ]
    ring

/-- A byte string of n bytes spells a number below `256^n`. -/
theorem packBytes_lt (l : Bytes) : packBytes l 0 < 256 ^ l.length := by
  induction l with
  | nil => simp [packBytes]
  | cons b bs ih =>
    rw [packBytes, packBytes_acc, List.length_cons, pow_succ]
    have := b.isLt
    nlinarith [Nat.one_le_pow bs.length 256 (by norm_num)]

/-- The bytes of a string spell the string. -/
theorem packBytes_bytesOf {w : Nat} (n : Nat) (x : BitVec w) : packBytes (bytesOf n x) 0 = x.toNat % 256 ^ n := by
  induction n with
  | zero => simp [bytesOf, packBytes, Nat.mod_one]
  | succ n ih =>
    rw [bytesOf_succ, packBytes, packBytes_acc, ih, bytesOf_length, pow_succ]
    have h : (x.extractLsb' (8 * n) 8).toNat = x.toNat / 256 ^ n % 256 := by
      simp [BitVec.extractLsb'_toNat, Nat.shiftRight_eq_div_pow, pow_mul]
    rw [h, Nat.mod_mul]
    ring

/-- A string is determined by its bytes. -/
theorem ofBytes_bytesOf {w n : Nat} (hw : w = 8 * n) (x : BitVec w) : ofBytes w (bytesOf n x) = x := by
  apply BitVec.eq_of_toNat_eq
  have hx := x.isLt
  have h2 : (2 : Nat) ^ w = 256 ^ n := by rw [hw, pow_mul]; norm_num
  rw [ofBytes, packBytes_bytesOf, BitVec.toNat_ofNat, ← h2, Nat.mod_mod, Nat.mod_eq_of_lt hx]

/-- A string whose number agrees with a list of bytes has those bytes. -/
theorem bytesOf_eq_of_mod {w : Nat} (l : Bytes) (x : BitVec w) (h : x.toNat % 256 ^ l.length = packBytes l 0) :
    bytesOf l.length x = l := by
  induction l with
  | nil => simp [bytesOf]
  | cons b bs ih =>
    rw [List.length_cons, bytesOf_succ]
    rw [List.length_cons, packBytes, packBytes_acc, pow_succ, Nat.mod_mul] at h
    have hlt := packBytes_lt bs
    have hm := Nat.mod_lt x.toNat (Nat.pow_pos (n := bs.length) (show 0 < 256 by norm_num))
    have hb := b.isLt
    have key : x.toNat / 256 ^ bs.length % 256 = b.toNat ∧ x.toNat % 256 ^ bs.length = packBytes bs 0 := by
      have hP : 0 < 256 ^ bs.length := Nat.pow_pos (by norm_num)
      constructor
      · have := congrArg (· / 256 ^ bs.length) h
        simp only [Nat.add_mul_div_left _ _ hP, Nat.div_eq_of_lt hm, zero_add] at this
        rw [this, Nat.add_comm, Nat.mul_zero, Nat.zero_add, Nat.add_mul_div_right _ _ hP, Nat.div_eq_of_lt hlt]
        simp
      · have := congrArg (· % 256 ^ bs.length) h
        simpa [Nat.add_mul_mod_self_left, Nat.mod_eq_of_lt hlt, Nat.mul_add_mod_self_right] using this
    congr 1
    · apply BitVec.eq_of_toNat_eq
      simpa [BitVec.extractLsb'_toNat, Nat.shiftRight_eq_div_pow, pow_mul] using key.1
    · exact ih key.2

/-- A list of bytes is determined by the string it makes. -/
theorem bytesOf_ofBytes {w : Nat} (l : Bytes) (hw : w = 8 * l.length) : bytesOf l.length (ofBytes w l) = l := by
  apply bytesOf_eq_of_mod
  have h2 : (2 : Nat) ^ w = 256 ^ l.length := by rw [hw, pow_mul]; norm_num
  rw [ofBytes, BitVec.toNat_ofNat, h2, Nat.mod_mod, Nat.mod_eq_of_lt (packBytes_lt l)]

/-- A little-endian field of n bytes is below `256^n` (R10). -/
theorem leNat_lt (l : Bytes) : leNat l < 256 ^ l.length := by
  induction l with
  | nil => simp [leNat]
  | cons b bs ih =>
    rw [leNat, List.length_cons, pow_succ]
    have := b.isLt
    nlinarith

/-! ## Units -/

@[simp] theorem bytesOfBlocks_length (bs : List Block) : (bytesOfBlocks bs).length = 8 * bs.length := by
  induction bs with
  | nil => rfl
  | cons b bs ih => simp [bytesOfBlocks, ih]; ring

theorem bytesOf_eight_append (b : Block) (rest : Bytes) :
    blocksOf (bytesOf 8 b ++ rest) = b :: blocksOf rest := by
  have h : ofBytes 64 (bytesOf 8 b) = b := ofBytes_bytesOf (by norm_num) b
  simp only [bytesOf_succ] at h ⊢
  simp only [List.cons_append]
  rw [blocksOf]
  congr 1

/-- The units of the bytes of a sequence of units are that sequence. -/
@[simp] theorem blocksOf_bytesOfBlocks (bs : List Block) : blocksOf (bytesOfBlocks bs) = bs := by
  induction bs with
  | nil => rfl
  | cons b bs ih => rw [bytesOfBlocks, bytesOf_eight_append, ih]

/-- A byte string of at least 8 bytes is its first unit and the rest. -/
theorem blocksOf_of_le {l : Bytes} (h : 8 ≤ l.length) :
    blocksOf l = ofBytes 64 (l.take 8) :: blocksOf (l.drop 8) := by
  match l, h with
  | b0 :: b1 :: b2 :: b3 :: b4 :: b5 :: b6 :: b7 :: rest, _ => rfl

/-- The bytes of the units of a byte string whose length is a multiple of 8 are that string. -/
theorem bytesOfBlocks_blocksOf : ∀ (n : Nat) (l : Bytes), l.length = 8 * n → bytesOfBlocks (blocksOf l) = l := by
  intro n
  induction n with
  | zero => intro l h; obtain rfl := List.length_eq_zero_iff.mp (by omega : l.length = 0); rfl
  | succ n ih =>
    intro l h
    rw [blocksOf_of_le (by omega), bytesOfBlocks, ih _ (by simp; omega)]
    have h8 : (l.take 8).length = 8 := by simp; omega
    have := bytesOf_ofBytes (w := 64) (l.take 8) (by rw [h8])
    rw [h8] at this
    rw [this, List.take_append_drop]

/-- How many units a byte string has. -/
theorem blocksOf_length : ∀ (n : Nat) (l : Bytes), l.length = 8 * n → (blocksOf l).length = n := by
  intro n
  induction n with
  | zero => intro l h; obtain rfl := List.length_eq_zero_iff.mp (by omega : l.length = 0); rfl
  | succ n ih =>
    intro l h
    rw [blocksOf_of_le (by omega), List.length_cons, ih _ (by simp; omega)]

@[simp] theorem cbcEncBlocks_length (k : CipherKey) (iv : Block) (bs : List Block) :
    (cbcEncBlocks k iv bs).length = bs.length := by
  induction bs generalizing iv with
  | nil => rfl
  | cons b bs ih => simp [cbcEncBlocks, ih]

@[simp] theorem cbcDecBlocks_length (k : CipherKey) (iv : Block) (bs : List Block) :
    (cbcDecBlocks k iv bs).length = bs.length := by
  induction bs generalizing iv with
  | nil => rfl
  | cons b bs ih => simp [cbcDecBlocks, ih]

/-- CBC encryption has the length of its input (R133). -/
theorem cbcEnc_length {k : CipherKey} {iv : Block} {l : Bytes} (h : l.length % 8 = 0) :
    (cbcEnc k iv l).length = l.length := by
  rw [cbcEnc, bytesOfBlocks_length, cbcEncBlocks_length, blocksOf_length (l.length / 8) l (by omega)]
  omega

/-- CBC decryption has the length of its input (R134). -/
theorem cbcDec_length {k : CipherKey} {iv : Block} {l : Bytes} (h : l.length % 8 = 0) :
    (cbcDec k iv l).length = l.length := by
  rw [cbcDec, bytesOfBlocks_length, cbcDecBlocks_length, blocksOf_length (l.length / 8) l (by omega)]
  omega

/-- The XOR of two strings of length n has length n (R11). -/
theorem xorBytes_length {a b : Bytes} (h : a.length = b.length) : (xorBytes a b).length = a.length := by
  simp [xorBytes, h]

/-- Byte k of an XOR of two strings of equal length (R11). -/
theorem xorBytes_getD {a b : Bytes} (h : a.length = b.length) (k : Nat) (hk : k < a.length) :
    (xorBytes a b).getD k 0 = a.getD k 0 ^^^ b.getD k 0 := by
  have hb : k < b.length := h ▸ hk
  simp [xorBytes, List.getD_eq_getElem?_getD, List.getElem?_zipWith, List.getElem?_eq_getElem hk,
    List.getElem?_eq_getElem hb]

/-! ## Permutations -/

/-- Bit k, counted from the least significant, of the number that bits spell. -/
theorem packBits_testBit (l : List Bool) (acc k : Nat) :
    (packBits l acc).testBit k =
      if k < l.length then l.getD (l.length - 1 - k) false else acc.testBit (k - l.length) := by
  induction l generalizing acc with
  | nil => simp [packBits]
  | cons b bs ih =>
    rw [packBits, ih, List.length_cons]
    by_cases h1 : k < bs.length
    · rw [if_pos h1, if_pos (by omega)]
      obtain ⟨j, hj⟩ : ∃ j, bs.length - 1 - k = j := ⟨_, rfl⟩
      rw [hj, show bs.length + 1 - 1 - k = j + 1 by omega, List.getD_cons_succ]
    · rw [if_neg h1]
      by_cases h2 : k = bs.length
      · subst h2
        cases b <;> simp [Nat.testBit_zero]
      · rw [if_neg (by omega)]
        obtain ⟨j, rfl⟩ : ∃ j, k = bs.length + (j + 1) := ⟨k - bs.length - 1, by omega⟩
        rw [show bs.length + (j + 1) - bs.length = j + 1 by omega,
          show bs.length + (j + 1) - (bs.length + 1) = j by omega, Nat.testBit_add_one]
        congr 1
        cases b
        · simp
        · simp; omega

/-- Output bit j of a permutation is input bit `T[j]` (R110). -/
theorem desBit_permute {n m : Nat} {t : List Nat} (x : BitVec n) (ht : t.length = m) {j : Nat} (h1 : 1 ≤ j)
    (h2 : j ≤ m) : desBit (permute m t x) j = desBit x (t.getD (j - 1) 0) := by
  have hj : j - 1 < t.length := by omega
  unfold permute
  rw [desBit, BitVec.getLsbD_ofNat, packBits_testBit]
  simp only [List.length_map, ht]
  rw [if_pos (by omega), show m - 1 - (m - j) = j - 1 by omega]
  simp [List.getD_eq_getElem?_getD, List.getElem?_eq_getElem hj]
  omega

/-- Two strings with the same bits are the same. -/
theorem eq_of_desBit_eq {n : Nat} {x y : BitVec n} (h : ∀ j, 1 ≤ j → j ≤ n → desBit x j = desBit y j) : x = y := by
  apply BitVec.eq_of_getLsbD_eq
  intro i hi
  have := h (n - i) (by omega) (by omega)
  simpa [desBit, show n - (n - i) = i by omega] using this

end Sys2Proof.Machine
end

