-- ==== Sys2Proof/Laws/Memory.lean ====
section
/-! SUPPORT. The laws of the byte memories: what a read after a write gives, that every operation keeps the canonical
form and the bound, and that equal contents mean equal memories. -/

namespace Sys2Proof.Machine

open Sys2Proof

variable {m m' : Memory} {a x lo n size : Nat} {b : Byte} {v : Bytes}

/-- The canonical form above a bound holds above any smaller one. -/
theorem Memory.wfAbove_mono (h : m.wfAbove lo = true) (hl : x ≤ lo) : m.wfAbove x = true := by
  cases m with
  | nil => rfl
  | cons c m =>
    simp only [Memory.wfAbove, Bool.and_eq_true, decide_eq_true_eq] at h ⊢
    exact ⟨⟨hl.trans h.1.1, h.1.2⟩, h.2⟩

/-- An address below the bound of the canonical form is not listed. -/
theorem Memory.get_of_wfAbove (h : m.wfAbove lo = true) (hx : x < lo) : m.get x = unlistedByte := by
  induction m generalizing lo with
  | nil => rfl
  | cons c m ih =>
    simp only [Memory.wfAbove, Bool.and_eq_true, decide_eq_true_eq] at h
    rw [Memory.get, if_neg (by omega)]
    exact ih h.2 (by omega)

/-- Writing one byte keeps the canonical form. -/
theorem Memory.set_wfAbove (h : m.wfAbove lo = true) (ha : lo ≤ a) : (m.set a b).wfAbove lo = true := by
  induction m generalizing lo with
  | nil => simp only [Memory.set]; split <;> simp_all [Memory.wfAbove]
  | cons c m ih =>
    have hc := h
    simp only [Memory.wfAbove, Bool.and_eq_true, decide_eq_true_eq] at hc
    unfold Memory.set
    split
    · split
      · exact h
      · simp only [Memory.wfAbove, Bool.and_eq_true, decide_eq_true_eq]
        exact ⟨⟨ha, by assumption⟩, ⟨by omega, hc.1.2⟩, hc.2⟩
    · split
      · split
        · exact Memory.wfAbove_mono hc.2 (by omega)
        · simp only [Memory.wfAbove, Bool.and_eq_true, decide_eq_true_eq]
          exact ⟨⟨ha, by assumption⟩, by rename_i e _; rw [e]; exact hc.2⟩
      · simp only [Memory.wfAbove, Bool.and_eq_true, decide_eq_true_eq]
        exact ⟨hc.1, ih hc.2 (by omega)⟩

/-- Writing one byte keeps the canonical form. -/
theorem Memory.set_wf (h : m.wf = true) : (m.set a b).wf = true := Memory.set_wfAbove h (Nat.zero_le _)

/-- Writing a byte string keeps the canonical form. -/
theorem Memory.write_wf (h : m.wf = true) : (m.write a v).wf = true := by
  induction v generalizing m a with
  | nil => exact h
  | cons b bs ih => exact ih (Memory.set_wf h)

/-- What a read of any address gives after one byte is written. -/
theorem Memory.get_set_above (h : m.wfAbove lo = true) :
    (m.set a b).get x = if x = a then b else m.get x := by
  induction m generalizing lo with
  | nil =>
    unfold Memory.set
    by_cases hb : b = unlistedByte <;> by_cases hx : x = a
    · simp [hb, hx, Memory.get]
    · simp [hb, hx, Memory.get]
    · simp [hb, hx, Memory.get]
    · simp [hb, hx, Ne.symm hx, Memory.get]
  | cons c m ih =>
    simp only [Memory.wfAbove, Bool.and_eq_true, decide_eq_true_eq] at h
    have hrest : ∀ y, y ≤ c.1 → Memory.get m y = unlistedByte := fun y hy => Memory.get_of_wfAbove h.2 (by omega)
    unfold Memory.set
    split
    · split
      · by_cases hx : x = a
        · subst hx; simp only [Memory.get, if_true]
          rw [if_neg (by omega), hrest _ (by omega)]; exact Eq.symm ‹b = _›
        · simp [hx]
      · by_cases hx : x = a
        · subst hx; simp [Memory.get]
        · rw [if_neg hx, Memory.get, if_neg (fun e => hx e.symm)]
    · split
      · rename_i hac
        split
        · by_cases hx : x = a
          · rw [if_pos hx, hrest x (by omega)]; exact Eq.symm ‹b = _›
          · simp only [Memory.get]; rw [if_neg hx, if_neg (by omega)]
        · by_cases hx : x = a
          · subst hx; simp [Memory.get]
          · simp only [Memory.get]
            rw [if_neg (fun e => hx e.symm), if_neg hx, if_neg (by omega)]
      · simp only [Memory.get]
        rw [ih h.2]
        by_cases hx : x = a
        · subst hx; simp; intro e; omega
        · simp [hx]

/-- Read after write of one byte: the byte written at its address, and every other byte as before. -/
theorem Memory.get_set (h : m.wf = true) : (m.set a b).get x = if x = a then b else m.get x :=
  Memory.get_set_above h

/-- Read after write of a byte string: byte `x - a` of it inside its range, and every other byte as before. -/
theorem Memory.get_write (h : m.wf = true) :
    (m.write a v).get x = if a ≤ x ∧ x < a + v.length then v.getD (x - a) 0 else m.get x := by
  induction v generalizing m a with
  | nil => simp [Memory.write]
  | cons b bs ih =>
    rw [Memory.write, ih (Memory.set_wf h), Memory.get_set h]
    simp only [List.length_cons]
    by_cases h1 : a + 1 ≤ x ∧ x < a + 1 + bs.length
    · rw [if_pos h1, if_pos (by omega)]
      obtain ⟨k, rfl⟩ : ∃ k, x = a + 1 + k := ⟨x - (a + 1), by omega⟩
      rw [show a + 1 + k - (a + 1) = k by omega, show a + 1 + k - a = k + 1 by omega, List.getD_cons_succ]
    · rw [if_neg h1]
      by_cases hx : x = a
      · subst hx; simp
      · rw [if_neg hx, if_neg (by omega)]

/-- A read has the length asked for. -/
@[simp] theorem Memory.read_length : (m.read a n).length = n := by simp [Memory.read]

/-- Byte `k` of a read is the byte at address `a + k`. -/
theorem Memory.read_getD {k : Nat} (hk : k < n) : (m.read a n).getD k 0 = m.get (a + k) := by
  simp [Memory.read, List.getD_eq_getElem?_getD, hk]

/-- Two memories that agree on a range give the same read of it. -/
theorem Memory.read_congr (h : ∀ k, k < n → m.get (a + k) = m'.get (a + k)) : m.read a n = m'.read a n := by
  simp only [Memory.read]
  exact List.map_congr_left fun k hk => h k (List.mem_range.mp hk)

/-- Writing a byte below the bound keeps every listed address below it. -/
theorem Memory.set_below (h : m.below size = true) (ha : a < size) : (m.set a b).below size = true := by
  induction m with
  | nil => simp only [Memory.set]; split <;> simp_all [Memory.below]
  | cons c m ih =>
    simp only [Memory.below, List.all_cons, Bool.and_eq_true, decide_eq_true_eq] at h
    have hm : Memory.below m size = true := h.2
    have := ih hm
    simp only [Memory.below] at this
    unfold Memory.set
    split
    · split <;> simp [Memory.below, h.1, ha, h.2]
    · split
      · split <;> simp [Memory.below, ha, h.2]
      · simp [Memory.below, h.1, this]

/-- Writing a byte string inside the bound keeps every listed address below it. -/
theorem Memory.write_below (h : m.below size = true) (ha : a + v.length ≤ size) : (m.write a v).below size = true := by
  induction v generalizing m a with
  | nil => exact h
  | cons b bs ih =>
    simp only [List.length_cons] at ha
    exact ih (Memory.set_below h (by omega)) (by omega)

/-- The memory built from listed cells is canonical and inside its bound. -/
theorem Memory.ofCells_wf (cells : List Host.Cell) :
    (Memory.ofCells size cells).wf = true ∧ (Memory.ofCells size cells).below size = true := by
  unfold Memory.ofCells
  have key : ∀ (cs : List Host.Cell) (m : Memory), m.wf = true → m.below size = true →
      (cs.foldl (fun m c => if c.1 < size then m.set c.1 c.2 else m) m).wf = true ∧
      (cs.foldl (fun m c => if c.1 < size then m.set c.1 c.2 else m) m).below size = true := by
    intro cs
    induction cs with
    | nil => exact fun m h1 h2 => ⟨h1, h2⟩
    | cons c cs ih =>
      intro m h1 h2
      by_cases hc : c.1 < size
      · simpa [hc] using ih _ (Memory.set_wf h1) (Memory.set_below h2 hc)
      · simpa [hc] using ih _ h1 h2
  exact key cells [] rfl rfl

/-- Two canonical memories with the same contents are the same list. -/
theorem Memory.ext_above (h : m.wfAbove lo = true) (h' : m'.wfAbove lo = true) (hg : ∀ x, m.get x = m'.get x) :
    m = m' := by
  induction m generalizing m' lo with
  | nil =>
    cases m' with
    | nil => rfl
    | cons c m' =>
      simp only [Memory.wfAbove, Bool.and_eq_true, decide_eq_true_eq] at h'
      exact absurd (by simpa [Memory.get] using (hg c.1).symm) h'.1.2
  | cons c m ih =>
    simp only [Memory.wfAbove, Bool.and_eq_true, decide_eq_true_eq] at h
    cases m' with
    | nil => exact absurd (by simpa [Memory.get] using hg c.1) h.1.2
    | cons c' m' =>
      simp only [Memory.wfAbove, Bool.and_eq_true, decide_eq_true_eq] at h'
      have hm : ∀ y, y ≤ c.1 → Memory.get m y = unlistedByte := fun y hy => Memory.get_of_wfAbove h.2 (by omega)
      have hm' : ∀ y, y ≤ c'.1 → Memory.get m' y = unlistedByte := fun y hy => Memory.get_of_wfAbove h'.2 (by omega)
      have h1 : c.1 = c'.1 := by
        rcases Nat.lt_trichotomy c.1 c'.1 with hlt | he | hlt
        · exact absurd (by simpa [Memory.get, Nat.ne_of_gt hlt, hm' c.1 hlt.le] using hg c.1) h.1.2
        · exact he
        · exact absurd (by simpa [Memory.get, Nat.ne_of_gt hlt, hm c'.1 hlt.le] using (hg c'.1).symm) h'.1.2
      have h2 : c.2 = c'.2 := by simpa [Memory.get, h1] using hg c.1
      obtain rfl : c = c' := Prod.ext h1 h2
      congr 1
      refine ih h.2 h'.2 fun x => ?_
      by_cases hx : x = c.1
      · subst hx; rw [hm _ le_rfl, hm' _ le_rfl]
      · simpa [Memory.get, Ne.symm hx] using hg x

/-- Two canonical memories with the same contents are equal. -/
theorem Memory.ext (h : m.wf = true) (h' : m'.wf = true) (hg : ∀ x, m.get x = m'.get x) : m = m' :=
  Memory.ext_above h h' hg

/-- The range check is `addr + n <= size` (R62). -/
@[simp] theorem inRange_eq_true : inRange a n size = true ↔ a + n ≤ size := by
  unfold inRange
  split <;> simp_all

/-- The range check fails exactly when the range runs past the end (R62). -/
@[simp] theorem inRange_eq_false : inRange a n size = false ↔ size < a + n := by
  rw [← Bool.not_eq_true, inRange_eq_true, Nat.not_le]

end Sys2Proof.Machine
end

