-- ==== Sys2Proof/Laws/Blocks.lean ====
section
/-! SUPPORT. Lemmas about the walks over the block table: the offsets of the blocks (spec/10_state.md R41), and what a
sequence of in-place writes to disjoint ranges leaves (`SIGN_BLOCKS`, spec/43_signature_engine.md R176; `ContentCipher`,
spec/45_table_content_pipeline.md R218). -/

namespace Sys2Proof.Machine

open Sys2Proof

/-- `Offset(i+1) = Offset(i) + D_SIZE(i)` (R41). -/
theorem blockOffset_succ (t : Memory) (i : Nat) : blockOffset t (i + 1) = blockOffset t i + dSize t i := by
  simp [blockOffset, List.range_succ]

/-- The offsets rise with the index (R41). -/
theorem blockOffset_mono (t : Memory) {i j : Nat} (h : i ≤ j) : blockOffset t i ≤ blockOffset t j := by
  induction j, h using Nat.le_induction with
  | base => exact Nat.le_refl _
  | succ j _ ih => rw [blockOffset_succ]; omega

/-- A block ends before every later block starts (R218 "Blocks are disjoint by construction"). -/
theorem blockOffset_add_size_le (t : Memory) {i j : Nat} (h : i < j) :
    blockOffset t i + dSize t i ≤ blockOffset t j := by
  rw [← blockOffset_succ]; exact blockOffset_mono t h

/-- Every block of the table lies inside the content (R41). -/
theorem blockOffset_add_size_le_total (t : Memory) {i : Nat} (h : i < tCount t) :
    blockOffset t i + dSize t i ≤ totalSize t := blockOffset_add_size_le t h

/-- The ranges of `n i` bytes from `a i`, for the listed indices, do not meet. -/
def RangesApart (l : List Nat) (a n : Nat → Nat) : Prop :=
  l.Pairwise fun i j => a i + n i ≤ a j ∨ a j + n j ≤ a i

/-- What in-place writes to ranges that do not meet leave: each range holds its function of the bytes that stood there
before the first write, every other byte is unchanged, and the canonical form stays. -/
theorem foldl_write_apart {a n : Nat → Nat} {g : Nat → Bytes → Bytes} (l : List Nat) (m : Memory)
    (hm : m.wf = true) (hd : RangesApart l a n) (hg : ∀ i ∈ l, ∀ v, v.length = n i → (g i v).length = n i) :
    (l.foldl (fun m i => m.write (a i) (g i (m.read (a i) (n i)))) m).wf = true ∧
    (∀ i ∈ l, ∀ b < n i, (l.foldl (fun m i => m.write (a i) (g i (m.read (a i) (n i)))) m).get (a i + b) =
      (g i (m.read (a i) (n i))).getD b 0) ∧
    (∀ x, (∀ i ∈ l, ¬ (a i ≤ x ∧ x < a i + n i)) →
      (l.foldl (fun m i => m.write (a i) (g i (m.read (a i) (n i)))) m).get x = m.get x) := by
  induction l generalizing m with
  | nil => simp [hm]
  | cons i l ih =>
    obtain ⟨hi, hl⟩ := List.pairwise_cons.mp hd
    have hlen : (g i (m.read (a i) (n i))).length = n i := hg i (by simp) _ (by simp)
    obtain ⟨h1, h2, h3⟩ := ih (m.write (a i) (g i (m.read (a i) (n i)))) (Memory.write_wf hm) hl
      fun j hj => hg j (List.mem_cons_of_mem _ hj)
    refine ⟨h1, ?_, ?_⟩
    · intro j hj b hb
      rcases List.mem_cons.mp hj with rfl | hj
      · rw [List.foldl_cons, h3, Memory.get_write hm, hlen, if_pos (by omega), Nat.add_sub_cancel_left]
        intro k hk hx
        have := hi k hk
        omega
      · rw [List.foldl_cons, h2 j hj b hb]
        congr 2
        refine Memory.read_congr fun k hk => ?_
        rw [Memory.get_write hm, hlen, if_neg]
        have := hi j hj
        omega
    · intro x hx
      rw [List.foldl_cons, h3 x fun j hj => hx j (List.mem_cons_of_mem _ hj), Memory.get_write hm, hlen,
        if_neg (hx i (by simp))]

/-- The content blocks of listed rising indices do not meet (R218). -/
theorem contentRanges_apart (t : Memory) (base : Nat) {l : List Nat} (h : l.Pairwise (· < ·)) :
    RangesApart l (fun i => base + blockOffset t i) (dSize t) :=
  h.imp fun hij => .inl (by have := blockOffset_add_size_le t hij; dsimp only; omega)

/-- The signature fields of the descriptors of listed rising indices do not meet (R39, R176). -/
theorem signatureRanges_apart {l : List Nat} (h : l.Pairwise (· < ·)) :
    RangesApart l (fun i => 16 + 16 * i) fun _ => 8 :=
  h.imp fun hij => .inl (by dsimp only; omega)

/-- The indices of the table that pass a test rise. -/
theorem blockIndices_filter_sorted (t : Memory) (p : Nat → Bool) : ((blockIndices t).filter p).Pairwise (· < ·) :=
  (List.pairwise_lt_range (n := tCount t)).filter p

/-- What `SIGN_BLOCKS` leaves in `TBL` (R176). -/
theorem signTable_get {s : State} (h : s.tbl.wf = true) :
    (signTable s).wf = true ∧
    (∀ i < tCount s.tbl, isSigned s.tbl i = true → ∀ b < 8,
      (signTable s).get (16 + 16 * i + b) = (bytesOf 8 (blockSig s i)).getD b 0) ∧
    (∀ x, (∀ i < tCount s.tbl, isSigned s.tbl i = true → ¬ (16 + 16 * i ≤ x ∧ x < 16 + 16 * i + 8)) →
      (signTable s).get x = s.tbl.get x) := by
  have key := foldl_write_apart (a := fun i => 16 + 16 * i) (n := fun _ => 8) (g := fun i _ => bytesOf 8 (blockSig s i))
    ((blockIndices s.tbl).filter (isSigned s.tbl)) s.tbl h
    (signatureRanges_apart (blockIndices_filter_sorted s.tbl _)) (fun i _ v _ => by simp)
  refine ⟨key.1, fun i hi hs b hb => key.2.1 i ?_ b hb, fun x hx => key.2.2 x fun i hi => ?_⟩
  · simp [blockIndices, hi, hs]
  · have := List.mem_filter.mp hi
    exact hx i (List.mem_range.mp this.1) this.2

/-- What the cipher walk of `ContentCipher` leaves in MEM, for a cipher that keeps the length of whole units (R218). -/
theorem foldl_cipherBlock_get {f : CipherKey → Block → Bytes → Bytes} {k : CipherKey} {s : State}
    (hf : ∀ v : Bytes, v.length % 8 = 0 → (f k s.ks.contentIv v).length = v.length) (h : s.mem.wf = true)
    (h8 : ∀ i ∈ encryptedBlocks s.tbl, dSize s.tbl i % 8 = 0) :
    ((encryptedBlocks s.tbl).foldl (cipherBlock f k s) s.mem).wf = true ∧
    (∀ i < tCount s.tbl, isEncrypted s.tbl i = true → ∀ b < dSize s.tbl i,
      ((encryptedBlocks s.tbl).foldl (cipherBlock f k s) s.mem).get (s.contbase.toNat + blockOffset s.tbl i + b) =
        (f k s.ks.contentIv (blockData s i)).getD b 0) ∧
    (∀ x, (∀ i < tCount s.tbl, isEncrypted s.tbl i = true →
        ¬ (s.contbase.toNat + blockOffset s.tbl i ≤ x ∧
          x < s.contbase.toNat + blockOffset s.tbl i + dSize s.tbl i)) →
      ((encryptedBlocks s.tbl).foldl (cipherBlock f k s) s.mem).get x = s.mem.get x) := by
  have key := foldl_write_apart (a := fun i => s.contbase.toNat + blockOffset s.tbl i) (n := dSize s.tbl)
    (g := fun _ v => f k s.ks.contentIv v) (encryptedBlocks s.tbl) s.mem h
    (contentRanges_apart s.tbl _ (blockIndices_filter_sorted s.tbl _))
    (fun i hi v hv => by rw [hf v (hv ▸ h8 i hi), hv])
  refine ⟨key.1, fun i hi hs b hb => key.2.1 i ?_ b hb, fun x hx => key.2.2 x fun i hi => ?_⟩
  · simp [encryptedBlocks, blockIndices, hi, hs]
  · have := List.mem_filter.mp hi
    exact hx i (List.mem_range.mp this.1) this.2

end Sys2Proof.Machine
end

