-- ==== Sys2Proof/Laws/State.lean ====
section
/-! SUPPORT. The small lemmas of the state: one per field per update, each true by unfolding, for the operations that
change several fields (`zeroise`, `takeError`, `clearInstance`, the `put` writes, `taking`, `resetWith`). -/

namespace Sys2Proof.Machine

open Sys2Proof

/-! ## `zeroise` -/

@[simp] theorem zeroise_a0 (s : State) : s.zeroise.a0 = s.a0 := rfl
@[simp] theorem zeroise_a1 (s : State) : s.zeroise.a1 = s.a1 := rfl
@[simp] theorem zeroise_a2 (s : State) : s.zeroise.a2 = s.a2 := rfl
@[simp] theorem zeroise_a3 (s : State) : s.zeroise.a3 = s.a3 := rfl
@[simp] theorem zeroise_contbase (s : State) : s.zeroise.contbase = s.contbase := rfl
@[simp] theorem zeroise_phase (s : State) : s.zeroise.phase = s.phase := rfl
@[simp] theorem zeroise_err (s : State) : s.zeroise.err = s.err := rfl
@[simp] theorem zeroise_errinfo (s : State) : s.zeroise.errinfo = s.errinfo := rfl
@[simp] theorem zeroise_hdr (s : State) : s.zeroise.hdr = 0 := rfl
@[simp] theorem zeroise_hsig (s : State) : s.zeroise.hsig = 0 := rfl
@[simp] theorem zeroise_kbit (s : State) : s.zeroise.kbit = 0 := rfl
@[simp] theorem zeroise_kc (s : State) : s.zeroise.kc = 0 := rfl
@[simp] theorem zeroise_kek (s : State) : s.zeroise.kek = 0 := rfl
@[simp] theorem zeroise_tsig (s : State) : s.zeroise.tsig = 0 := rfl
@[simp] theorem zeroise_rsig (s : State) : s.zeroise.rsig = 0 := rfl
@[simp] theorem zeroise_sig (s : State) : s.zeroise.sig = 0 := rfl
@[simp] theorem zeroise_dig (s : State) : s.zeroise.dig = 0 := rfl
@[simp] theorem zeroise_ckey (s : State) : s.zeroise.ckey = 0 := rfl
@[simp] theorem zeroise_civ (s : State) : s.zeroise.civ = 0 := rfl
@[simp] theorem zeroise_valid (s : State) : s.zeroise.valid = 0 := rfl
@[simp] theorem zeroise_ks (s : State) : s.zeroise.ks = s.ks := rfl
@[simp] theorem zeroise_kspresent (s : State) : s.zeroise.kspresent = s.kspresent := rfl
@[simp] theorem zeroise_kslock (s : State) : s.zeroise.kslock = s.kslock := rfl
@[simp] theorem zeroise_tbl (s : State) : s.zeroise.tbl = [] := rfl
@[simp] theorem zeroise_mem (s : State) : s.zeroise.mem = s.mem := rfl
@[simp] theorem zeroise_params (s : State) : s.zeroise.params = s.params := rfl
@[simp] theorem zeroise_inbox (s : State) : s.zeroise.inbox = s.inbox := rfl
@[simp] theorem zeroise_reply (s : State) : s.zeroise.reply = s.reply := rfl

/-! ## `takeError` (R258) -/

@[simp] theorem takeError_a0 (e : EngineError) (w : Word) (s : State) : (takeError e w s).a0 = s.a0 := rfl
@[simp] theorem takeError_a1 (e : EngineError) (w : Word) (s : State) : (takeError e w s).a1 = s.a1 := rfl
@[simp] theorem takeError_a2 (e : EngineError) (w : Word) (s : State) : (takeError e w s).a2 = s.a2 := rfl
@[simp] theorem takeError_a3 (e : EngineError) (w : Word) (s : State) : (takeError e w s).a3 = s.a3 := rfl
@[simp] theorem takeError_contbase (e : EngineError) (w : Word) (s : State) : (takeError e w s).contbase = s.contbase := rfl
@[simp] theorem takeError_phase (e : EngineError) (w : Word) (s : State) : (takeError e w s).phase = .rejected := rfl
@[simp] theorem takeError_err (e : EngineError) (w : Word) (s : State) : (takeError e w s).err = e.number := rfl
@[simp] theorem takeError_errinfo (e : EngineError) (w : Word) (s : State) : (takeError e w s).errinfo = w := rfl
@[simp] theorem takeError_hdr (e : EngineError) (w : Word) (s : State) : (takeError e w s).hdr = 0 := rfl
@[simp] theorem takeError_hsig (e : EngineError) (w : Word) (s : State) : (takeError e w s).hsig = 0 := rfl
@[simp] theorem takeError_kbit (e : EngineError) (w : Word) (s : State) : (takeError e w s).kbit = 0 := rfl
@[simp] theorem takeError_kc (e : EngineError) (w : Word) (s : State) : (takeError e w s).kc = 0 := rfl
@[simp] theorem takeError_kek (e : EngineError) (w : Word) (s : State) : (takeError e w s).kek = 0 := rfl
@[simp] theorem takeError_tsig (e : EngineError) (w : Word) (s : State) : (takeError e w s).tsig = 0 := rfl
@[simp] theorem takeError_rsig (e : EngineError) (w : Word) (s : State) : (takeError e w s).rsig = 0 := rfl
@[simp] theorem takeError_sig (e : EngineError) (w : Word) (s : State) : (takeError e w s).sig = 0 := rfl
@[simp] theorem takeError_dig (e : EngineError) (w : Word) (s : State) : (takeError e w s).dig = 0 := rfl
@[simp] theorem takeError_ckey (e : EngineError) (w : Word) (s : State) : (takeError e w s).ckey = 0 := rfl
@[simp] theorem takeError_civ (e : EngineError) (w : Word) (s : State) : (takeError e w s).civ = 0 := rfl
@[simp] theorem takeError_valid (e : EngineError) (w : Word) (s : State) : (takeError e w s).valid = 0 := rfl
@[simp] theorem takeError_ks (e : EngineError) (w : Word) (s : State) : (takeError e w s).ks = s.ks := rfl
@[simp] theorem takeError_kspresent (e : EngineError) (w : Word) (s : State) : (takeError e w s).kspresent = s.kspresent := rfl
@[simp] theorem takeError_kslock (e : EngineError) (w : Word) (s : State) : (takeError e w s).kslock = s.kslock := rfl
@[simp] theorem takeError_tbl (e : EngineError) (w : Word) (s : State) : (takeError e w s).tbl = [] := rfl
@[simp] theorem takeError_mem (e : EngineError) (w : Word) (s : State) : (takeError e w s).mem = s.mem := rfl
@[simp] theorem takeError_params (e : EngineError) (w : Word) (s : State) : (takeError e w s).params = s.params := rfl
@[simp] theorem takeError_inbox (e : EngineError) (w : Word) (s : State) : (takeError e w s).inbox = s.inbox := rfl
@[simp] theorem takeError_reply (e : EngineError) (w : Word) (s : State) : (takeError e w s).reply = s.reply := rfl

/-! ## `clearInstance` (R240) -/

@[simp] theorem clearInstance_a0 (s : State) : (clearInstance s).a0 = 0 := rfl
@[simp] theorem clearInstance_a1 (s : State) : (clearInstance s).a1 = 0 := rfl
@[simp] theorem clearInstance_a2 (s : State) : (clearInstance s).a2 = 0 := rfl
@[simp] theorem clearInstance_a3 (s : State) : (clearInstance s).a3 = 0 := rfl
@[simp] theorem clearInstance_contbase (s : State) : (clearInstance s).contbase = 0 := rfl
@[simp] theorem clearInstance_phase (s : State) : (clearInstance s).phase = .unloaded := rfl
@[simp] theorem clearInstance_err (s : State) : (clearInstance s).err = 0 := rfl
@[simp] theorem clearInstance_errinfo (s : State) : (clearInstance s).errinfo = 0 := rfl
@[simp] theorem clearInstance_hdr (s : State) : (clearInstance s).hdr = 0 := rfl
@[simp] theorem clearInstance_hsig (s : State) : (clearInstance s).hsig = 0 := rfl
@[simp] theorem clearInstance_kbit (s : State) : (clearInstance s).kbit = 0 := rfl
@[simp] theorem clearInstance_kc (s : State) : (clearInstance s).kc = 0 := rfl
@[simp] theorem clearInstance_kek (s : State) : (clearInstance s).kek = 0 := rfl
@[simp] theorem clearInstance_tsig (s : State) : (clearInstance s).tsig = 0 := rfl
@[simp] theorem clearInstance_rsig (s : State) : (clearInstance s).rsig = 0 := rfl
@[simp] theorem clearInstance_sig (s : State) : (clearInstance s).sig = 0 := rfl
@[simp] theorem clearInstance_dig (s : State) : (clearInstance s).dig = 0 := rfl
@[simp] theorem clearInstance_ckey (s : State) : (clearInstance s).ckey = 0 := rfl
@[simp] theorem clearInstance_civ (s : State) : (clearInstance s).civ = 0 := rfl
@[simp] theorem clearInstance_valid (s : State) : (clearInstance s).valid = 0 := rfl
@[simp] theorem clearInstance_ks (s : State) : (clearInstance s).ks = s.ks := rfl
@[simp] theorem clearInstance_kspresent (s : State) : (clearInstance s).kspresent = s.kspresent := rfl
@[simp] theorem clearInstance_kslock (s : State) : (clearInstance s).kslock = s.kslock := rfl
@[simp] theorem clearInstance_tbl (s : State) : (clearInstance s).tbl = [] := rfl
@[simp] theorem clearInstance_mem (s : State) : (clearInstance s).mem = s.mem := rfl
@[simp] theorem clearInstance_params (s : State) : (clearInstance s).params = s.params := rfl
@[simp] theorem clearInstance_inbox (s : State) : (clearInstance s).inbox = s.inbox := rfl
@[simp] theorem clearInstance_reply (s : State) : (clearInstance s).reply = s.reply := rfl

/-! ## Register writes `NAME <- v` (R27) -/

@[simp] theorem putHdr_a0 (v : BitVec 256) (s : State) : (s.putHdr v).a0 = s.a0 := rfl
@[simp] theorem putHdr_a1 (v : BitVec 256) (s : State) : (s.putHdr v).a1 = s.a1 := rfl
@[simp] theorem putHdr_a2 (v : BitVec 256) (s : State) : (s.putHdr v).a2 = s.a2 := rfl
@[simp] theorem putHdr_a3 (v : BitVec 256) (s : State) : (s.putHdr v).a3 = s.a3 := rfl
@[simp] theorem putHdr_contbase (v : BitVec 256) (s : State) : (s.putHdr v).contbase = s.contbase := rfl
@[simp] theorem putHdr_phase (v : BitVec 256) (s : State) : (s.putHdr v).phase = s.phase := rfl
@[simp] theorem putHdr_err (v : BitVec 256) (s : State) : (s.putHdr v).err = s.err := rfl
@[simp] theorem putHdr_errinfo (v : BitVec 256) (s : State) : (s.putHdr v).errinfo = s.errinfo := rfl
@[simp] theorem putHdr_hdr (v : BitVec 256) (s : State) : (s.putHdr v).hdr = v := rfl
@[simp] theorem putHdr_hsig (v : BitVec 256) (s : State) : (s.putHdr v).hsig = s.hsig := rfl
@[simp] theorem putHdr_kbit (v : BitVec 256) (s : State) : (s.putHdr v).kbit = s.kbit := rfl
@[simp] theorem putHdr_kc (v : BitVec 256) (s : State) : (s.putHdr v).kc = s.kc := rfl
@[simp] theorem putHdr_kek (v : BitVec 256) (s : State) : (s.putHdr v).kek = s.kek := rfl
@[simp] theorem putHdr_tsig (v : BitVec 256) (s : State) : (s.putHdr v).tsig = s.tsig := rfl
@[simp] theorem putHdr_rsig (v : BitVec 256) (s : State) : (s.putHdr v).rsig = s.rsig := rfl
@[simp] theorem putHdr_sig (v : BitVec 256) (s : State) : (s.putHdr v).sig = s.sig := rfl
@[simp] theorem putHdr_dig (v : BitVec 256) (s : State) : (s.putHdr v).dig = s.dig := rfl
@[simp] theorem putHdr_ckey (v : BitVec 256) (s : State) : (s.putHdr v).ckey = s.ckey := rfl
@[simp] theorem putHdr_civ (v : BitVec 256) (s : State) : (s.putHdr v).civ = s.civ := rfl
@[simp] theorem putHdr_valid (v : BitVec 256) (s : State) : (s.putHdr v).valid = s.valid ||| vHdr := rfl
@[simp] theorem putHdr_ks (v : BitVec 256) (s : State) : (s.putHdr v).ks = s.ks := rfl
@[simp] theorem putHdr_kspresent (v : BitVec 256) (s : State) : (s.putHdr v).kspresent = s.kspresent := rfl
@[simp] theorem putHdr_kslock (v : BitVec 256) (s : State) : (s.putHdr v).kslock = s.kslock := rfl
@[simp] theorem putHdr_tbl (v : BitVec 256) (s : State) : (s.putHdr v).tbl = s.tbl := rfl
@[simp] theorem putHdr_mem (v : BitVec 256) (s : State) : (s.putHdr v).mem = s.mem := rfl
@[simp] theorem putHdr_params (v : BitVec 256) (s : State) : (s.putHdr v).params = s.params := rfl
@[simp] theorem putHdr_inbox (v : BitVec 256) (s : State) : (s.putHdr v).inbox = s.inbox := rfl
@[simp] theorem putHdr_reply (v : BitVec 256) (s : State) : (s.putHdr v).reply = s.reply := rfl
@[simp] theorem putHsig_a0 (v : Block) (s : State) : (s.putHsig v).a0 = s.a0 := rfl
@[simp] theorem putHsig_a1 (v : Block) (s : State) : (s.putHsig v).a1 = s.a1 := rfl
@[simp] theorem putHsig_a2 (v : Block) (s : State) : (s.putHsig v).a2 = s.a2 := rfl
@[simp] theorem putHsig_a3 (v : Block) (s : State) : (s.putHsig v).a3 = s.a3 := rfl
@[simp] theorem putHsig_contbase (v : Block) (s : State) : (s.putHsig v).contbase = s.contbase := rfl
@[simp] theorem putHsig_phase (v : Block) (s : State) : (s.putHsig v).phase = s.phase := rfl
@[simp] theorem putHsig_err (v : Block) (s : State) : (s.putHsig v).err = s.err := rfl
@[simp] theorem putHsig_errinfo (v : Block) (s : State) : (s.putHsig v).errinfo = s.errinfo := rfl
@[simp] theorem putHsig_hdr (v : Block) (s : State) : (s.putHsig v).hdr = s.hdr := rfl
@[simp] theorem putHsig_hsig (v : Block) (s : State) : (s.putHsig v).hsig = v := rfl
@[simp] theorem putHsig_kbit (v : Block) (s : State) : (s.putHsig v).kbit = s.kbit := rfl
@[simp] theorem putHsig_kc (v : Block) (s : State) : (s.putHsig v).kc = s.kc := rfl
@[simp] theorem putHsig_kek (v : Block) (s : State) : (s.putHsig v).kek = s.kek := rfl
@[simp] theorem putHsig_tsig (v : Block) (s : State) : (s.putHsig v).tsig = s.tsig := rfl
@[simp] theorem putHsig_rsig (v : Block) (s : State) : (s.putHsig v).rsig = s.rsig := rfl
@[simp] theorem putHsig_sig (v : Block) (s : State) : (s.putHsig v).sig = s.sig := rfl
@[simp] theorem putHsig_dig (v : Block) (s : State) : (s.putHsig v).dig = s.dig := rfl
@[simp] theorem putHsig_ckey (v : Block) (s : State) : (s.putHsig v).ckey = s.ckey := rfl
@[simp] theorem putHsig_civ (v : Block) (s : State) : (s.putHsig v).civ = s.civ := rfl
@[simp] theorem putHsig_valid (v : Block) (s : State) : (s.putHsig v).valid = s.valid ||| vHsig := rfl
@[simp] theorem putHsig_ks (v : Block) (s : State) : (s.putHsig v).ks = s.ks := rfl
@[simp] theorem putHsig_kspresent (v : Block) (s : State) : (s.putHsig v).kspresent = s.kspresent := rfl
@[simp] theorem putHsig_kslock (v : Block) (s : State) : (s.putHsig v).kslock = s.kslock := rfl
@[simp] theorem putHsig_tbl (v : Block) (s : State) : (s.putHsig v).tbl = s.tbl := rfl
@[simp] theorem putHsig_mem (v : Block) (s : State) : (s.putHsig v).mem = s.mem := rfl
@[simp] theorem putHsig_params (v : Block) (s : State) : (s.putHsig v).params = s.params := rfl
@[simp] theorem putHsig_inbox (v : Block) (s : State) : (s.putHsig v).inbox = s.inbox := rfl
@[simp] theorem putHsig_reply (v : Block) (s : State) : (s.putHsig v).reply = s.reply := rfl
@[simp] theorem putKbit_a0 (v : BitVec 128) (s : State) : (s.putKbit v).a0 = s.a0 := rfl
@[simp] theorem putKbit_a1 (v : BitVec 128) (s : State) : (s.putKbit v).a1 = s.a1 := rfl
@[simp] theorem putKbit_a2 (v : BitVec 128) (s : State) : (s.putKbit v).a2 = s.a2 := rfl
@[simp] theorem putKbit_a3 (v : BitVec 128) (s : State) : (s.putKbit v).a3 = s.a3 := rfl
@[simp] theorem putKbit_contbase (v : BitVec 128) (s : State) : (s.putKbit v).contbase = s.contbase := rfl
@[simp] theorem putKbit_phase (v : BitVec 128) (s : State) : (s.putKbit v).phase = s.phase := rfl
@[simp] theorem putKbit_err (v : BitVec 128) (s : State) : (s.putKbit v).err = s.err := rfl
@[simp] theorem putKbit_errinfo (v : BitVec 128) (s : State) : (s.putKbit v).errinfo = s.errinfo := rfl
@[simp] theorem putKbit_hdr (v : BitVec 128) (s : State) : (s.putKbit v).hdr = s.hdr := rfl
@[simp] theorem putKbit_hsig (v : BitVec 128) (s : State) : (s.putKbit v).hsig = s.hsig := rfl
@[simp] theorem putKbit_kbit (v : BitVec 128) (s : State) : (s.putKbit v).kbit = v := rfl
@[simp] theorem putKbit_kc (v : BitVec 128) (s : State) : (s.putKbit v).kc = s.kc := rfl
@[simp] theorem putKbit_kek (v : BitVec 128) (s : State) : (s.putKbit v).kek = s.kek := rfl
@[simp] theorem putKbit_tsig (v : BitVec 128) (s : State) : (s.putKbit v).tsig = s.tsig := rfl
@[simp] theorem putKbit_rsig (v : BitVec 128) (s : State) : (s.putKbit v).rsig = s.rsig := rfl
@[simp] theorem putKbit_sig (v : BitVec 128) (s : State) : (s.putKbit v).sig = s.sig := rfl
@[simp] theorem putKbit_dig (v : BitVec 128) (s : State) : (s.putKbit v).dig = s.dig := rfl
@[simp] theorem putKbit_ckey (v : BitVec 128) (s : State) : (s.putKbit v).ckey = s.ckey := rfl
@[simp] theorem putKbit_civ (v : BitVec 128) (s : State) : (s.putKbit v).civ = s.civ := rfl
@[simp] theorem putKbit_valid (v : BitVec 128) (s : State) : (s.putKbit v).valid = s.valid ||| vKbit := rfl
@[simp] theorem putKbit_ks (v : BitVec 128) (s : State) : (s.putKbit v).ks = s.ks := rfl
@[simp] theorem putKbit_kspresent (v : BitVec 128) (s : State) : (s.putKbit v).kspresent = s.kspresent := rfl
@[simp] theorem putKbit_kslock (v : BitVec 128) (s : State) : (s.putKbit v).kslock = s.kslock := rfl
@[simp] theorem putKbit_tbl (v : BitVec 128) (s : State) : (s.putKbit v).tbl = s.tbl := rfl
@[simp] theorem putKbit_mem (v : BitVec 128) (s : State) : (s.putKbit v).mem = s.mem := rfl
@[simp] theorem putKbit_params (v : BitVec 128) (s : State) : (s.putKbit v).params = s.params := rfl
@[simp] theorem putKbit_inbox (v : BitVec 128) (s : State) : (s.putKbit v).inbox = s.inbox := rfl
@[simp] theorem putKbit_reply (v : BitVec 128) (s : State) : (s.putKbit v).reply = s.reply := rfl
@[simp] theorem putKc_a0 (v : BitVec 128) (s : State) : (s.putKc v).a0 = s.a0 := rfl
@[simp] theorem putKc_a1 (v : BitVec 128) (s : State) : (s.putKc v).a1 = s.a1 := rfl
@[simp] theorem putKc_a2 (v : BitVec 128) (s : State) : (s.putKc v).a2 = s.a2 := rfl
@[simp] theorem putKc_a3 (v : BitVec 128) (s : State) : (s.putKc v).a3 = s.a3 := rfl
@[simp] theorem putKc_contbase (v : BitVec 128) (s : State) : (s.putKc v).contbase = s.contbase := rfl
@[simp] theorem putKc_phase (v : BitVec 128) (s : State) : (s.putKc v).phase = s.phase := rfl
@[simp] theorem putKc_err (v : BitVec 128) (s : State) : (s.putKc v).err = s.err := rfl
@[simp] theorem putKc_errinfo (v : BitVec 128) (s : State) : (s.putKc v).errinfo = s.errinfo := rfl
@[simp] theorem putKc_hdr (v : BitVec 128) (s : State) : (s.putKc v).hdr = s.hdr := rfl
@[simp] theorem putKc_hsig (v : BitVec 128) (s : State) : (s.putKc v).hsig = s.hsig := rfl
@[simp] theorem putKc_kbit (v : BitVec 128) (s : State) : (s.putKc v).kbit = s.kbit := rfl
@[simp] theorem putKc_kc (v : BitVec 128) (s : State) : (s.putKc v).kc = v := rfl
@[simp] theorem putKc_kek (v : BitVec 128) (s : State) : (s.putKc v).kek = s.kek := rfl
@[simp] theorem putKc_tsig (v : BitVec 128) (s : State) : (s.putKc v).tsig = s.tsig := rfl
@[simp] theorem putKc_rsig (v : BitVec 128) (s : State) : (s.putKc v).rsig = s.rsig := rfl
@[simp] theorem putKc_sig (v : BitVec 128) (s : State) : (s.putKc v).sig = s.sig := rfl
@[simp] theorem putKc_dig (v : BitVec 128) (s : State) : (s.putKc v).dig = s.dig := rfl
@[simp] theorem putKc_ckey (v : BitVec 128) (s : State) : (s.putKc v).ckey = s.ckey := rfl
@[simp] theorem putKc_civ (v : BitVec 128) (s : State) : (s.putKc v).civ = s.civ := rfl
@[simp] theorem putKc_valid (v : BitVec 128) (s : State) : (s.putKc v).valid = s.valid ||| vKc := rfl
@[simp] theorem putKc_ks (v : BitVec 128) (s : State) : (s.putKc v).ks = s.ks := rfl
@[simp] theorem putKc_kspresent (v : BitVec 128) (s : State) : (s.putKc v).kspresent = s.kspresent := rfl
@[simp] theorem putKc_kslock (v : BitVec 128) (s : State) : (s.putKc v).kslock = s.kslock := rfl
@[simp] theorem putKc_tbl (v : BitVec 128) (s : State) : (s.putKc v).tbl = s.tbl := rfl
@[simp] theorem putKc_mem (v : BitVec 128) (s : State) : (s.putKc v).mem = s.mem := rfl
@[simp] theorem putKc_params (v : BitVec 128) (s : State) : (s.putKc v).params = s.params := rfl
@[simp] theorem putKc_inbox (v : BitVec 128) (s : State) : (s.putKc v).inbox = s.inbox := rfl
@[simp] theorem putKc_reply (v : BitVec 128) (s : State) : (s.putKc v).reply = s.reply := rfl
@[simp] theorem putKek_a0 (v : BitVec 128) (s : State) : (s.putKek v).a0 = s.a0 := rfl
@[simp] theorem putKek_a1 (v : BitVec 128) (s : State) : (s.putKek v).a1 = s.a1 := rfl
@[simp] theorem putKek_a2 (v : BitVec 128) (s : State) : (s.putKek v).a2 = s.a2 := rfl
@[simp] theorem putKek_a3 (v : BitVec 128) (s : State) : (s.putKek v).a3 = s.a3 := rfl
@[simp] theorem putKek_contbase (v : BitVec 128) (s : State) : (s.putKek v).contbase = s.contbase := rfl
@[simp] theorem putKek_phase (v : BitVec 128) (s : State) : (s.putKek v).phase = s.phase := rfl
@[simp] theorem putKek_err (v : BitVec 128) (s : State) : (s.putKek v).err = s.err := rfl
@[simp] theorem putKek_errinfo (v : BitVec 128) (s : State) : (s.putKek v).errinfo = s.errinfo := rfl
@[simp] theorem putKek_hdr (v : BitVec 128) (s : State) : (s.putKek v).hdr = s.hdr := rfl
@[simp] theorem putKek_hsig (v : BitVec 128) (s : State) : (s.putKek v).hsig = s.hsig := rfl
@[simp] theorem putKek_kbit (v : BitVec 128) (s : State) : (s.putKek v).kbit = s.kbit := rfl
@[simp] theorem putKek_kc (v : BitVec 128) (s : State) : (s.putKek v).kc = s.kc := rfl
@[simp] theorem putKek_kek (v : BitVec 128) (s : State) : (s.putKek v).kek = v := rfl
@[simp] theorem putKek_tsig (v : BitVec 128) (s : State) : (s.putKek v).tsig = s.tsig := rfl
@[simp] theorem putKek_rsig (v : BitVec 128) (s : State) : (s.putKek v).rsig = s.rsig := rfl
@[simp] theorem putKek_sig (v : BitVec 128) (s : State) : (s.putKek v).sig = s.sig := rfl
@[simp] theorem putKek_dig (v : BitVec 128) (s : State) : (s.putKek v).dig = s.dig := rfl
@[simp] theorem putKek_ckey (v : BitVec 128) (s : State) : (s.putKek v).ckey = s.ckey := rfl
@[simp] theorem putKek_civ (v : BitVec 128) (s : State) : (s.putKek v).civ = s.civ := rfl
@[simp] theorem putKek_valid (v : BitVec 128) (s : State) : (s.putKek v).valid = s.valid ||| vKek := rfl
@[simp] theorem putKek_ks (v : BitVec 128) (s : State) : (s.putKek v).ks = s.ks := rfl
@[simp] theorem putKek_kspresent (v : BitVec 128) (s : State) : (s.putKek v).kspresent = s.kspresent := rfl
@[simp] theorem putKek_kslock (v : BitVec 128) (s : State) : (s.putKek v).kslock = s.kslock := rfl
@[simp] theorem putKek_tbl (v : BitVec 128) (s : State) : (s.putKek v).tbl = s.tbl := rfl
@[simp] theorem putKek_mem (v : BitVec 128) (s : State) : (s.putKek v).mem = s.mem := rfl
@[simp] theorem putKek_params (v : BitVec 128) (s : State) : (s.putKek v).params = s.params := rfl
@[simp] theorem putKek_inbox (v : BitVec 128) (s : State) : (s.putKek v).inbox = s.inbox := rfl
@[simp] theorem putKek_reply (v : BitVec 128) (s : State) : (s.putKek v).reply = s.reply := rfl
@[simp] theorem putTsig_a0 (v : Block) (s : State) : (s.putTsig v).a0 = s.a0 := rfl
@[simp] theorem putTsig_a1 (v : Block) (s : State) : (s.putTsig v).a1 = s.a1 := rfl
@[simp] theorem putTsig_a2 (v : Block) (s : State) : (s.putTsig v).a2 = s.a2 := rfl
@[simp] theorem putTsig_a3 (v : Block) (s : State) : (s.putTsig v).a3 = s.a3 := rfl
@[simp] theorem putTsig_contbase (v : Block) (s : State) : (s.putTsig v).contbase = s.contbase := rfl
@[simp] theorem putTsig_phase (v : Block) (s : State) : (s.putTsig v).phase = s.phase := rfl
@[simp] theorem putTsig_err (v : Block) (s : State) : (s.putTsig v).err = s.err := rfl
@[simp] theorem putTsig_errinfo (v : Block) (s : State) : (s.putTsig v).errinfo = s.errinfo := rfl
@[simp] theorem putTsig_hdr (v : Block) (s : State) : (s.putTsig v).hdr = s.hdr := rfl
@[simp] theorem putTsig_hsig (v : Block) (s : State) : (s.putTsig v).hsig = s.hsig := rfl
@[simp] theorem putTsig_kbit (v : Block) (s : State) : (s.putTsig v).kbit = s.kbit := rfl
@[simp] theorem putTsig_kc (v : Block) (s : State) : (s.putTsig v).kc = s.kc := rfl
@[simp] theorem putTsig_kek (v : Block) (s : State) : (s.putTsig v).kek = s.kek := rfl
@[simp] theorem putTsig_tsig (v : Block) (s : State) : (s.putTsig v).tsig = v := rfl
@[simp] theorem putTsig_rsig (v : Block) (s : State) : (s.putTsig v).rsig = s.rsig := rfl
@[simp] theorem putTsig_sig (v : Block) (s : State) : (s.putTsig v).sig = s.sig := rfl
@[simp] theorem putTsig_dig (v : Block) (s : State) : (s.putTsig v).dig = s.dig := rfl
@[simp] theorem putTsig_ckey (v : Block) (s : State) : (s.putTsig v).ckey = s.ckey := rfl
@[simp] theorem putTsig_civ (v : Block) (s : State) : (s.putTsig v).civ = s.civ := rfl
@[simp] theorem putTsig_valid (v : Block) (s : State) : (s.putTsig v).valid = s.valid ||| vTsig := rfl
@[simp] theorem putTsig_ks (v : Block) (s : State) : (s.putTsig v).ks = s.ks := rfl
@[simp] theorem putTsig_kspresent (v : Block) (s : State) : (s.putTsig v).kspresent = s.kspresent := rfl
@[simp] theorem putTsig_kslock (v : Block) (s : State) : (s.putTsig v).kslock = s.kslock := rfl
@[simp] theorem putTsig_tbl (v : Block) (s : State) : (s.putTsig v).tbl = s.tbl := rfl
@[simp] theorem putTsig_mem (v : Block) (s : State) : (s.putTsig v).mem = s.mem := rfl
@[simp] theorem putTsig_params (v : Block) (s : State) : (s.putTsig v).params = s.params := rfl
@[simp] theorem putTsig_inbox (v : Block) (s : State) : (s.putTsig v).inbox = s.inbox := rfl
@[simp] theorem putTsig_reply (v : Block) (s : State) : (s.putTsig v).reply = s.reply := rfl
@[simp] theorem putRsig_a0 (v : Block) (s : State) : (s.putRsig v).a0 = s.a0 := rfl
@[simp] theorem putRsig_a1 (v : Block) (s : State) : (s.putRsig v).a1 = s.a1 := rfl
@[simp] theorem putRsig_a2 (v : Block) (s : State) : (s.putRsig v).a2 = s.a2 := rfl
@[simp] theorem putRsig_a3 (v : Block) (s : State) : (s.putRsig v).a3 = s.a3 := rfl
@[simp] theorem putRsig_contbase (v : Block) (s : State) : (s.putRsig v).contbase = s.contbase := rfl
@[simp] theorem putRsig_phase (v : Block) (s : State) : (s.putRsig v).phase = s.phase := rfl
@[simp] theorem putRsig_err (v : Block) (s : State) : (s.putRsig v).err = s.err := rfl
@[simp] theorem putRsig_errinfo (v : Block) (s : State) : (s.putRsig v).errinfo = s.errinfo := rfl
@[simp] theorem putRsig_hdr (v : Block) (s : State) : (s.putRsig v).hdr = s.hdr := rfl
@[simp] theorem putRsig_hsig (v : Block) (s : State) : (s.putRsig v).hsig = s.hsig := rfl
@[simp] theorem putRsig_kbit (v : Block) (s : State) : (s.putRsig v).kbit = s.kbit := rfl
@[simp] theorem putRsig_kc (v : Block) (s : State) : (s.putRsig v).kc = s.kc := rfl
@[simp] theorem putRsig_kek (v : Block) (s : State) : (s.putRsig v).kek = s.kek := rfl
@[simp] theorem putRsig_tsig (v : Block) (s : State) : (s.putRsig v).tsig = s.tsig := rfl
@[simp] theorem putRsig_rsig (v : Block) (s : State) : (s.putRsig v).rsig = v := rfl
@[simp] theorem putRsig_sig (v : Block) (s : State) : (s.putRsig v).sig = s.sig := rfl
@[simp] theorem putRsig_dig (v : Block) (s : State) : (s.putRsig v).dig = s.dig := rfl
@[simp] theorem putRsig_ckey (v : Block) (s : State) : (s.putRsig v).ckey = s.ckey := rfl
@[simp] theorem putRsig_civ (v : Block) (s : State) : (s.putRsig v).civ = s.civ := rfl
@[simp] theorem putRsig_valid (v : Block) (s : State) : (s.putRsig v).valid = s.valid ||| vRsig := rfl
@[simp] theorem putRsig_ks (v : Block) (s : State) : (s.putRsig v).ks = s.ks := rfl
@[simp] theorem putRsig_kspresent (v : Block) (s : State) : (s.putRsig v).kspresent = s.kspresent := rfl
@[simp] theorem putRsig_kslock (v : Block) (s : State) : (s.putRsig v).kslock = s.kslock := rfl
@[simp] theorem putRsig_tbl (v : Block) (s : State) : (s.putRsig v).tbl = s.tbl := rfl
@[simp] theorem putRsig_mem (v : Block) (s : State) : (s.putRsig v).mem = s.mem := rfl
@[simp] theorem putRsig_params (v : Block) (s : State) : (s.putRsig v).params = s.params := rfl
@[simp] theorem putRsig_inbox (v : Block) (s : State) : (s.putRsig v).inbox = s.inbox := rfl
@[simp] theorem putRsig_reply (v : Block) (s : State) : (s.putRsig v).reply = s.reply := rfl
@[simp] theorem putSig_a0 (v : Block) (s : State) : (s.putSig v).a0 = s.a0 := rfl
@[simp] theorem putSig_a1 (v : Block) (s : State) : (s.putSig v).a1 = s.a1 := rfl
@[simp] theorem putSig_a2 (v : Block) (s : State) : (s.putSig v).a2 = s.a2 := rfl
@[simp] theorem putSig_a3 (v : Block) (s : State) : (s.putSig v).a3 = s.a3 := rfl
@[simp] theorem putSig_contbase (v : Block) (s : State) : (s.putSig v).contbase = s.contbase := rfl
@[simp] theorem putSig_phase (v : Block) (s : State) : (s.putSig v).phase = s.phase := rfl
@[simp] theorem putSig_err (v : Block) (s : State) : (s.putSig v).err = s.err := rfl
@[simp] theorem putSig_errinfo (v : Block) (s : State) : (s.putSig v).errinfo = s.errinfo := rfl
@[simp] theorem putSig_hdr (v : Block) (s : State) : (s.putSig v).hdr = s.hdr := rfl
@[simp] theorem putSig_hsig (v : Block) (s : State) : (s.putSig v).hsig = s.hsig := rfl
@[simp] theorem putSig_kbit (v : Block) (s : State) : (s.putSig v).kbit = s.kbit := rfl
@[simp] theorem putSig_kc (v : Block) (s : State) : (s.putSig v).kc = s.kc := rfl
@[simp] theorem putSig_kek (v : Block) (s : State) : (s.putSig v).kek = s.kek := rfl
@[simp] theorem putSig_tsig (v : Block) (s : State) : (s.putSig v).tsig = s.tsig := rfl
@[simp] theorem putSig_rsig (v : Block) (s : State) : (s.putSig v).rsig = s.rsig := rfl
@[simp] theorem putSig_sig (v : Block) (s : State) : (s.putSig v).sig = v := rfl
@[simp] theorem putSig_dig (v : Block) (s : State) : (s.putSig v).dig = s.dig := rfl
@[simp] theorem putSig_ckey (v : Block) (s : State) : (s.putSig v).ckey = s.ckey := rfl
@[simp] theorem putSig_civ (v : Block) (s : State) : (s.putSig v).civ = s.civ := rfl
@[simp] theorem putSig_valid (v : Block) (s : State) : (s.putSig v).valid = s.valid ||| vSig := rfl
@[simp] theorem putSig_ks (v : Block) (s : State) : (s.putSig v).ks = s.ks := rfl
@[simp] theorem putSig_kspresent (v : Block) (s : State) : (s.putSig v).kspresent = s.kspresent := rfl
@[simp] theorem putSig_kslock (v : Block) (s : State) : (s.putSig v).kslock = s.kslock := rfl
@[simp] theorem putSig_tbl (v : Block) (s : State) : (s.putSig v).tbl = s.tbl := rfl
@[simp] theorem putSig_mem (v : Block) (s : State) : (s.putSig v).mem = s.mem := rfl
@[simp] theorem putSig_params (v : Block) (s : State) : (s.putSig v).params = s.params := rfl
@[simp] theorem putSig_inbox (v : Block) (s : State) : (s.putSig v).inbox = s.inbox := rfl
@[simp] theorem putSig_reply (v : Block) (s : State) : (s.putSig v).reply = s.reply := rfl
@[simp] theorem putDig_a0 (v : Block) (s : State) : (s.putDig v).a0 = s.a0 := rfl
@[simp] theorem putDig_a1 (v : Block) (s : State) : (s.putDig v).a1 = s.a1 := rfl
@[simp] theorem putDig_a2 (v : Block) (s : State) : (s.putDig v).a2 = s.a2 := rfl
@[simp] theorem putDig_a3 (v : Block) (s : State) : (s.putDig v).a3 = s.a3 := rfl
@[simp] theorem putDig_contbase (v : Block) (s : State) : (s.putDig v).contbase = s.contbase := rfl
@[simp] theorem putDig_phase (v : Block) (s : State) : (s.putDig v).phase = s.phase := rfl
@[simp] theorem putDig_err (v : Block) (s : State) : (s.putDig v).err = s.err := rfl
@[simp] theorem putDig_errinfo (v : Block) (s : State) : (s.putDig v).errinfo = s.errinfo := rfl
@[simp] theorem putDig_hdr (v : Block) (s : State) : (s.putDig v).hdr = s.hdr := rfl
@[simp] theorem putDig_hsig (v : Block) (s : State) : (s.putDig v).hsig = s.hsig := rfl
@[simp] theorem putDig_kbit (v : Block) (s : State) : (s.putDig v).kbit = s.kbit := rfl
@[simp] theorem putDig_kc (v : Block) (s : State) : (s.putDig v).kc = s.kc := rfl
@[simp] theorem putDig_kek (v : Block) (s : State) : (s.putDig v).kek = s.kek := rfl
@[simp] theorem putDig_tsig (v : Block) (s : State) : (s.putDig v).tsig = s.tsig := rfl
@[simp] theorem putDig_rsig (v : Block) (s : State) : (s.putDig v).rsig = s.rsig := rfl
@[simp] theorem putDig_sig (v : Block) (s : State) : (s.putDig v).sig = s.sig := rfl
@[simp] theorem putDig_dig (v : Block) (s : State) : (s.putDig v).dig = v := rfl
@[simp] theorem putDig_ckey (v : Block) (s : State) : (s.putDig v).ckey = s.ckey := rfl
@[simp] theorem putDig_civ (v : Block) (s : State) : (s.putDig v).civ = s.civ := rfl
@[simp] theorem putDig_valid (v : Block) (s : State) : (s.putDig v).valid = s.valid ||| vDig := rfl
@[simp] theorem putDig_ks (v : Block) (s : State) : (s.putDig v).ks = s.ks := rfl
@[simp] theorem putDig_kspresent (v : Block) (s : State) : (s.putDig v).kspresent = s.kspresent := rfl
@[simp] theorem putDig_kslock (v : Block) (s : State) : (s.putDig v).kslock = s.kslock := rfl
@[simp] theorem putDig_tbl (v : Block) (s : State) : (s.putDig v).tbl = s.tbl := rfl
@[simp] theorem putDig_mem (v : Block) (s : State) : (s.putDig v).mem = s.mem := rfl
@[simp] theorem putDig_params (v : Block) (s : State) : (s.putDig v).params = s.params := rfl
@[simp] theorem putDig_inbox (v : Block) (s : State) : (s.putDig v).inbox = s.inbox := rfl
@[simp] theorem putDig_reply (v : Block) (s : State) : (s.putDig v).reply = s.reply := rfl
@[simp] theorem putCkey_a0 (v : BitVec 192) (s : State) : (s.putCkey v).a0 = s.a0 := rfl
@[simp] theorem putCkey_a1 (v : BitVec 192) (s : State) : (s.putCkey v).a1 = s.a1 := rfl
@[simp] theorem putCkey_a2 (v : BitVec 192) (s : State) : (s.putCkey v).a2 = s.a2 := rfl
@[simp] theorem putCkey_a3 (v : BitVec 192) (s : State) : (s.putCkey v).a3 = s.a3 := rfl
@[simp] theorem putCkey_contbase (v : BitVec 192) (s : State) : (s.putCkey v).contbase = s.contbase := rfl
@[simp] theorem putCkey_phase (v : BitVec 192) (s : State) : (s.putCkey v).phase = s.phase := rfl
@[simp] theorem putCkey_err (v : BitVec 192) (s : State) : (s.putCkey v).err = s.err := rfl
@[simp] theorem putCkey_errinfo (v : BitVec 192) (s : State) : (s.putCkey v).errinfo = s.errinfo := rfl
@[simp] theorem putCkey_hdr (v : BitVec 192) (s : State) : (s.putCkey v).hdr = s.hdr := rfl
@[simp] theorem putCkey_hsig (v : BitVec 192) (s : State) : (s.putCkey v).hsig = s.hsig := rfl
@[simp] theorem putCkey_kbit (v : BitVec 192) (s : State) : (s.putCkey v).kbit = s.kbit := rfl
@[simp] theorem putCkey_kc (v : BitVec 192) (s : State) : (s.putCkey v).kc = s.kc := rfl
@[simp] theorem putCkey_kek (v : BitVec 192) (s : State) : (s.putCkey v).kek = s.kek := rfl
@[simp] theorem putCkey_tsig (v : BitVec 192) (s : State) : (s.putCkey v).tsig = s.tsig := rfl
@[simp] theorem putCkey_rsig (v : BitVec 192) (s : State) : (s.putCkey v).rsig = s.rsig := rfl
@[simp] theorem putCkey_sig (v : BitVec 192) (s : State) : (s.putCkey v).sig = s.sig := rfl
@[simp] theorem putCkey_dig (v : BitVec 192) (s : State) : (s.putCkey v).dig = s.dig := rfl
@[simp] theorem putCkey_ckey (v : BitVec 192) (s : State) : (s.putCkey v).ckey = v := rfl
@[simp] theorem putCkey_civ (v : BitVec 192) (s : State) : (s.putCkey v).civ = s.civ := rfl
@[simp] theorem putCkey_valid (v : BitVec 192) (s : State) : (s.putCkey v).valid = s.valid ||| vCkey := rfl
@[simp] theorem putCkey_ks (v : BitVec 192) (s : State) : (s.putCkey v).ks = s.ks := rfl
@[simp] theorem putCkey_kspresent (v : BitVec 192) (s : State) : (s.putCkey v).kspresent = s.kspresent := rfl
@[simp] theorem putCkey_kslock (v : BitVec 192) (s : State) : (s.putCkey v).kslock = s.kslock := rfl
@[simp] theorem putCkey_tbl (v : BitVec 192) (s : State) : (s.putCkey v).tbl = s.tbl := rfl
@[simp] theorem putCkey_mem (v : BitVec 192) (s : State) : (s.putCkey v).mem = s.mem := rfl
@[simp] theorem putCkey_params (v : BitVec 192) (s : State) : (s.putCkey v).params = s.params := rfl
@[simp] theorem putCkey_inbox (v : BitVec 192) (s : State) : (s.putCkey v).inbox = s.inbox := rfl
@[simp] theorem putCkey_reply (v : BitVec 192) (s : State) : (s.putCkey v).reply = s.reply := rfl
@[simp] theorem putCiv_a0 (v : Block) (s : State) : (s.putCiv v).a0 = s.a0 := rfl
@[simp] theorem putCiv_a1 (v : Block) (s : State) : (s.putCiv v).a1 = s.a1 := rfl
@[simp] theorem putCiv_a2 (v : Block) (s : State) : (s.putCiv v).a2 = s.a2 := rfl
@[simp] theorem putCiv_a3 (v : Block) (s : State) : (s.putCiv v).a3 = s.a3 := rfl
@[simp] theorem putCiv_contbase (v : Block) (s : State) : (s.putCiv v).contbase = s.contbase := rfl
@[simp] theorem putCiv_phase (v : Block) (s : State) : (s.putCiv v).phase = s.phase := rfl
@[simp] theorem putCiv_err (v : Block) (s : State) : (s.putCiv v).err = s.err := rfl
@[simp] theorem putCiv_errinfo (v : Block) (s : State) : (s.putCiv v).errinfo = s.errinfo := rfl
@[simp] theorem putCiv_hdr (v : Block) (s : State) : (s.putCiv v).hdr = s.hdr := rfl
@[simp] theorem putCiv_hsig (v : Block) (s : State) : (s.putCiv v).hsig = s.hsig := rfl
@[simp] theorem putCiv_kbit (v : Block) (s : State) : (s.putCiv v).kbit = s.kbit := rfl
@[simp] theorem putCiv_kc (v : Block) (s : State) : (s.putCiv v).kc = s.kc := rfl
@[simp] theorem putCiv_kek (v : Block) (s : State) : (s.putCiv v).kek = s.kek := rfl
@[simp] theorem putCiv_tsig (v : Block) (s : State) : (s.putCiv v).tsig = s.tsig := rfl
@[simp] theorem putCiv_rsig (v : Block) (s : State) : (s.putCiv v).rsig = s.rsig := rfl
@[simp] theorem putCiv_sig (v : Block) (s : State) : (s.putCiv v).sig = s.sig := rfl
@[simp] theorem putCiv_dig (v : Block) (s : State) : (s.putCiv v).dig = s.dig := rfl
@[simp] theorem putCiv_ckey (v : Block) (s : State) : (s.putCiv v).ckey = s.ckey := rfl
@[simp] theorem putCiv_civ (v : Block) (s : State) : (s.putCiv v).civ = v := rfl
@[simp] theorem putCiv_valid (v : Block) (s : State) : (s.putCiv v).valid = s.valid ||| vCiv := rfl
@[simp] theorem putCiv_ks (v : Block) (s : State) : (s.putCiv v).ks = s.ks := rfl
@[simp] theorem putCiv_kspresent (v : Block) (s : State) : (s.putCiv v).kspresent = s.kspresent := rfl
@[simp] theorem putCiv_kslock (v : Block) (s : State) : (s.putCiv v).kslock = s.kslock := rfl
@[simp] theorem putCiv_tbl (v : Block) (s : State) : (s.putCiv v).tbl = s.tbl := rfl
@[simp] theorem putCiv_mem (v : Block) (s : State) : (s.putCiv v).mem = s.mem := rfl
@[simp] theorem putCiv_params (v : Block) (s : State) : (s.putCiv v).params = s.params := rfl
@[simp] theorem putCiv_inbox (v : Block) (s : State) : (s.putCiv v).inbox = s.inbox := rfl
@[simp] theorem putCiv_reply (v : Block) (s : State) : (s.putCiv v).reply = s.reply := rfl

/-! ## `taking` -/

@[simp] theorem taking_a0 (rest : List Transaction) (s : State) : (s.taking rest).a0 = s.a0 := rfl
@[simp] theorem taking_a1 (rest : List Transaction) (s : State) : (s.taking rest).a1 = s.a1 := rfl
@[simp] theorem taking_a2 (rest : List Transaction) (s : State) : (s.taking rest).a2 = s.a2 := rfl
@[simp] theorem taking_a3 (rest : List Transaction) (s : State) : (s.taking rest).a3 = s.a3 := rfl
@[simp] theorem taking_contbase (rest : List Transaction) (s : State) : (s.taking rest).contbase = s.contbase := rfl
@[simp] theorem taking_phase (rest : List Transaction) (s : State) : (s.taking rest).phase = s.phase := rfl
@[simp] theorem taking_err (rest : List Transaction) (s : State) : (s.taking rest).err = s.err := rfl
@[simp] theorem taking_errinfo (rest : List Transaction) (s : State) : (s.taking rest).errinfo = s.errinfo := rfl
@[simp] theorem taking_hdr (rest : List Transaction) (s : State) : (s.taking rest).hdr = s.hdr := rfl
@[simp] theorem taking_hsig (rest : List Transaction) (s : State) : (s.taking rest).hsig = s.hsig := rfl
@[simp] theorem taking_kbit (rest : List Transaction) (s : State) : (s.taking rest).kbit = s.kbit := rfl
@[simp] theorem taking_kc (rest : List Transaction) (s : State) : (s.taking rest).kc = s.kc := rfl
@[simp] theorem taking_kek (rest : List Transaction) (s : State) : (s.taking rest).kek = s.kek := rfl
@[simp] theorem taking_tsig (rest : List Transaction) (s : State) : (s.taking rest).tsig = s.tsig := rfl
@[simp] theorem taking_rsig (rest : List Transaction) (s : State) : (s.taking rest).rsig = s.rsig := rfl
@[simp] theorem taking_sig (rest : List Transaction) (s : State) : (s.taking rest).sig = s.sig := rfl
@[simp] theorem taking_dig (rest : List Transaction) (s : State) : (s.taking rest).dig = s.dig := rfl
@[simp] theorem taking_ckey (rest : List Transaction) (s : State) : (s.taking rest).ckey = s.ckey := rfl
@[simp] theorem taking_civ (rest : List Transaction) (s : State) : (s.taking rest).civ = s.civ := rfl
@[simp] theorem taking_valid (rest : List Transaction) (s : State) : (s.taking rest).valid = s.valid := rfl
@[simp] theorem taking_ks (rest : List Transaction) (s : State) : (s.taking rest).ks = s.ks := rfl
@[simp] theorem taking_kspresent (rest : List Transaction) (s : State) : (s.taking rest).kspresent = s.kspresent := rfl
@[simp] theorem taking_kslock (rest : List Transaction) (s : State) : (s.taking rest).kslock = s.kslock := rfl
@[simp] theorem taking_tbl (rest : List Transaction) (s : State) : (s.taking rest).tbl = s.tbl := rfl
@[simp] theorem taking_mem (rest : List Transaction) (s : State) : (s.taking rest).mem = s.mem := rfl
@[simp] theorem taking_params (rest : List Transaction) (s : State) : (s.taking rest).params = s.params := rfl
@[simp] theorem taking_inbox (rest : List Transaction) (s : State) : (s.taking rest).inbox = rest := rfl
@[simp] theorem taking_reply (rest : List Transaction) (s : State) : (s.taking rest).reply = none := rfl

/-! ## `resetWith` (R46) -/

@[simp] theorem resetWith_a0 (p : Params) (m : Memory) : (State.resetWith p m).a0 = 0 := rfl
@[simp] theorem resetWith_a1 (p : Params) (m : Memory) : (State.resetWith p m).a1 = 0 := rfl
@[simp] theorem resetWith_a2 (p : Params) (m : Memory) : (State.resetWith p m).a2 = 0 := rfl
@[simp] theorem resetWith_a3 (p : Params) (m : Memory) : (State.resetWith p m).a3 = 0 := rfl
@[simp] theorem resetWith_contbase (p : Params) (m : Memory) : (State.resetWith p m).contbase = 0 := rfl
@[simp] theorem resetWith_phase (p : Params) (m : Memory) : (State.resetWith p m).phase = .unloaded := rfl
@[simp] theorem resetWith_err (p : Params) (m : Memory) : (State.resetWith p m).err = 0 := rfl
@[simp] theorem resetWith_errinfo (p : Params) (m : Memory) : (State.resetWith p m).errinfo = 0 := rfl
@[simp] theorem resetWith_hdr (p : Params) (m : Memory) : (State.resetWith p m).hdr = 0 := rfl
@[simp] theorem resetWith_hsig (p : Params) (m : Memory) : (State.resetWith p m).hsig = 0 := rfl
@[simp] theorem resetWith_kbit (p : Params) (m : Memory) : (State.resetWith p m).kbit = 0 := rfl
@[simp] theorem resetWith_kc (p : Params) (m : Memory) : (State.resetWith p m).kc = 0 := rfl
@[simp] theorem resetWith_kek (p : Params) (m : Memory) : (State.resetWith p m).kek = 0 := rfl
@[simp] theorem resetWith_tsig (p : Params) (m : Memory) : (State.resetWith p m).tsig = 0 := rfl
@[simp] theorem resetWith_rsig (p : Params) (m : Memory) : (State.resetWith p m).rsig = 0 := rfl
@[simp] theorem resetWith_sig (p : Params) (m : Memory) : (State.resetWith p m).sig = 0 := rfl
@[simp] theorem resetWith_dig (p : Params) (m : Memory) : (State.resetWith p m).dig = 0 := rfl
@[simp] theorem resetWith_ckey (p : Params) (m : Memory) : (State.resetWith p m).ckey = 0 := rfl
@[simp] theorem resetWith_civ (p : Params) (m : Memory) : (State.resetWith p m).civ = 0 := rfl
@[simp] theorem resetWith_valid (p : Params) (m : Memory) : (State.resetWith p m).valid = 0 := rfl
@[simp] theorem resetWith_ks (p : Params) (m : Memory) : (State.resetWith p m).ks = KeyStore.empty := rfl
@[simp] theorem resetWith_kspresent (p : Params) (m : Memory) : (State.resetWith p m).kspresent = 0 := rfl
@[simp] theorem resetWith_kslock (p : Params) (m : Memory) : (State.resetWith p m).kslock = false := rfl
@[simp] theorem resetWith_tbl (p : Params) (m : Memory) : (State.resetWith p m).tbl = [] := rfl
@[simp] theorem resetWith_mem (p : Params) (m : Memory) : (State.resetWith p m).mem = m := rfl
@[simp] theorem resetWith_params (p : Params) (m : Memory) : (State.resetWith p m).params = p := rfl
@[simp] theorem resetWith_inbox (p : Params) (m : Memory) : (State.resetWith p m).inbox = [] := rfl
@[simp] theorem resetWith_reply (p : Params) (m : Memory) : (State.resetWith p m).reply = none := rfl

end Sys2Proof.Machine
end

