-- ==== Sys2Proof/Laws/Ops.lean ====
section
/-! SUPPORT. One lemma for each shared operation that says everything it can do, to be cited instead of unfolding it:
the `need` test, the two cipher commands' common meaning, `ContentCipher`, the bounded host reads, the host command. -/

namespace Sys2Proof.Machine

open Sys2Proof

/-! ## `need(...)` (R257) -/

/-- Nothing is missing exactly when every named valid bit is set and the key store is locked if it is named. -/
theorem missing_eq_zero_iff {names : BitVec 12} {ks : Bool} {s : State} :
    missing names ks s = 0 ↔ s.valid &&& names = names ∧ (ks = true → s.kslock = true) := by
  have hlow : ∀ i, (missing names ks s).getLsbD i =
      ((decide (i < 12) && (names.getLsbD i && !s.valid.getLsbD i)) || (i == 31 && ks && !s.kslock)) := by
    intro i
    simp only [missing, BitVec.getLsbD_or, BitVec.getLsbD_setWidth, BitVec.getLsbD_and, BitVec.getLsbD_not]
    by_cases h32 : i < 32
    · have hbit : ∀ i < 32, (0x80000000#32).getLsbD i = (i == 31) := by decide
      by_cases h : (ks && !s.kslock) = true
      · rw [if_pos h, show BitVec.getLsbD (2147483648 : Word) i = (i == 31) from hbit i h32]
        rw [Bool.and_assoc, h]
        by_cases h12 : i < 12 <;> simp [h32, h12]
      · rw [if_neg h]
        have h' : (ks && !s.kslock) = false := by simpa using h
        rw [Bool.and_assoc, h']
        by_cases h12 : i < 12 <;> simp [h32, h12]
    · have : ¬ i < 12 := by omega
      have h31 : (i == 31) = false := by simp; omega
      rw [BitVec.getLsbD_of_ge _ _ (by omega : 32 ≤ i)]
      simp [h32, this, h31]
  constructor
  · intro h
    have h0 : ∀ i, (missing names ks s).getLsbD i = false := by intro i; rw [h]; simp
    constructor
    · apply BitVec.eq_of_getLsbD_eq
      intro i hi
      have := h0 i
      rw [hlow] at this
      simp only [hi, decide_true, Bool.true_and, Bool.or_eq_false_iff] at this
      have h1 := this.1
      rw [BitVec.getLsbD_and]
      cases hn : names.getLsbD i <;> cases hv : s.valid.getLsbD i <;> simp_all
    · intro hk
      have := h0 31
      rw [hlow] at this
      simpa [hk] using this
  · rintro ⟨h1, h2⟩
    apply BitVec.eq_of_getLsbD_eq
    intro i _
    rw [hlow]
    have h3 : (ks && !s.kslock) = false := by cases ks <;> simp_all
    rw [Bool.and_assoc, h3]
    have h4 := congrArg (fun v => v.getLsbD i) h1
    simp only [BitVec.getLsbD_and] at h4
    cases hn : names.getLsbD i <;> cases hv : s.valid.getLsbD i <;> simp_all

/-- In a ready state nothing is missing. -/
theorem Ready.missing {names : BitVec 12} {ks : Bool} {s : State} (h : Ready names ks s) :
    Machine.missing names ks s = 0 := missing_eq_zero_iff.mpr h.2

/-! ## The key a count selects (R131, R135) -/

/-- What selecting the sub-keys answers. -/
theorem selectKey_eq_some {kn : Nat} {keys : BitVec 192} {k : CipherKey} :
    selectKey kn keys = some k ↔ SelectsKey kn keys k := by
  unfold selectKey SelectsKey
  constructor
  · intro h
    split at h <;> simp_all
  · rintro (⟨rfl, rfl⟩ | ⟨rfl, rfl⟩ | ⟨rfl, rfl⟩) <;> rfl

/-- A count outside 1, 2, 3 selects no key. -/
theorem selectKey_eq_none {kn : Nat} {keys : BitVec 192} :
    selectKey kn keys = none ↔ kn ≠ 1 ∧ kn ≠ 2 ∧ kn ≠ 3 := by
  unfold selectKey
  split <;> simp_all

/-! ## The common meaning of `CBC_ENC` and `CBC_DEC` (R137) -/

/-- What `cipherBuffer` can do: nothing in `Rejected`; one of its errors; or the store of the ciphered source. -/
theorem cipherBuffer_cases {f : CipherKey → Block → Bytes → Bytes} {kn : Nat} {s s' : State}
    (h : cipherBuffer f kn s = .next s') :
    (s.phase = .rejected ∧ s' = s) ∨
    (s.phase ≠ .rejected ∧ ∃ e w, s' = takeError e w s ∧
      (e = .operandInvalid ∨ e = .invalidKeyCount ∨ e = .lengthError ∨ e = .accessFault)) ∨
    (Ready (vCkey ||| vCiv) false s ∧ ∃ k, SelectsKey kn s.ckey k ∧ s.a2.toNat % 8 = 0 ∧
      Fits s s.a0.toNat s.a2.toNat ∧ Fits s s.a1.toNat s.a2.toNat ∧
      s' = { s with mem := s.mem.write s.a1.toNat (f k s.civ (s.mem.read s.a0.toNat s.a2.toNat)) }) := by
  unfold cipherBuffer raise at h
  split at h
  · exact .inl ⟨‹_›, by simpa using h.symm⟩
  · rename_i hp
    split at h
    · exact .inr (.inl ⟨hp, _, _, by simpa using h.symm, by simp⟩)
    · rename_i hm
      split at h
      · exact .inr (.inl ⟨hp, _, _, by simpa using h.symm, by simp⟩)
      · rename_i k hk
        split at h
        · exact .inr (.inl ⟨hp, _, _, by simpa using h.symm, by simp⟩)
        · split at h
          · exact .inr (.inl ⟨hp, _, _, by simpa using h.symm, by simp⟩)
          · split at h
            · exact .inr (.inl ⟨hp, _, _, by simpa using h.symm, by simp⟩)
            · refine .inr (.inr ⟨⟨hp, missing_eq_zero_iff.mp (not_not.mp hm)⟩, k, selectKey_eq_some.mp hk, ?_, ?_, ?_,
                by simpa using h.symm⟩)
              · omega
              · simp_all [Fits]
              · simp_all [Fits]

/-! ## `ContentCipher` (R218) -/

/-- When `ContentCipher` answers a new MEM: the checks have passed, and either no block is ENCRYPTED and MEM is as it
was, or every ENCRYPTED block has been ciphered in place under the selected key. -/
theorem contentCipher_ok {f : CipherKey → Block → Bytes → Bytes} {s : State} {m : Memory}
    (h : contentCipher f s = .ok m) :
    tCount s.tbl ≤ 256 ∧ Fits s s.contbase.toNat (totalSize s.tbl) ∧
    ((encryptedBlocks s.tbl = [] ∧ m = s.mem) ∨
      (encryptedBlocks s.tbl ≠ [] ∧ (∀ i ∈ encryptedBlocks s.tbl, dSize s.tbl i % 8 = 0) ∧
        ∃ k, SelectsKey (contentKn s.hdr) (s.kc ++ s.params.contentK3) k ∧
          m = (encryptedBlocks s.tbl).foldl (cipherBlock f k s) s.mem)) := by
  unfold contentCipher at h
  split at h
  · cases h
  · rename_i hc
    split at h
    · cases h
    · rename_i hr
      have hfit : Fits s s.contbase.toNat (totalSize s.tbl) := by simpa [contentInRange, Fits] using hr
      refine ⟨by simpa [Config.maxBlocks] using hc, hfit, ?_⟩
      split at h
      · rename_i he
        exact .inl ⟨by simpa using he, by simpa using h.symm⟩
      · rename_i he
        split at h
        · cases h
        · rename_i k hk
          split at h
          · cases h
          · rename_i hf
            refine .inr ⟨by simpa using he, ?_, k, selectKey_eq_some.mp hk, by simpa using h.symm⟩
            intro i hi
            have := List.find?_eq_none.mp hf i hi
            simpa using this

/-- Which errors `ContentCipher` can raise (R261). -/
theorem contentCipher_error {f : CipherKey → Block → Bytes → Bytes} {s : State} {e : EngineError × Word}
    (h : contentCipher f s = .error e) :
    e.1 = .invalidBitTableSize ∨ e.1 = .accessFault ∨ e.1 = .invalidKeyCount ∨ e.1 = .lengthError := by
  unfold contentCipher at h
  split at h
  · cases h; simp
  · split at h
    · cases h; simp
    · split at h
      · cases h
      · split at h
        · cases h; simp
        · split at h
          · cases h; simp
          · cases h

/-- What `CONTENT_DEC` and `CONTENT_ENC` can do (R219, R220). -/
theorem contentCommand_cases {f : CipherKey → Block → Bytes → Bytes} {s s' : State}
    (h : contentCommand f s = .next s') :
    (s.phase = .rejected ∧ s' = s) ∨
    (s.phase ≠ .rejected ∧ ∃ e w, s' = takeError e w s) ∨
    (Ready (vHdr ||| vKc ||| vTbl) true s ∧ ∃ m, contentCipher f s = .ok m ∧ s' = { s with mem := m }) := by
  unfold contentCommand raise at h
  split at h
  · exact .inl ⟨‹_›, by simpa using h.symm⟩
  · rename_i hp
    split at h
    · exact .inr (.inl ⟨hp, _, _, by simpa using h.symm⟩)
    · rename_i hm
      split at h
      · exact .inr (.inl ⟨hp, _, _, by simpa using h.symm⟩)
      · exact .inr (.inr ⟨⟨hp, missing_eq_zero_iff.mp (not_not.mp hm)⟩, _, ‹_›, by simpa using h.symm⟩)

/-! ## `LD_TABLE` after its budget checks (R193) -/

/-- What `loadTable` can do: raise one of its errors, or leave the decrypted table and `PHASE = TableVerified`. -/
theorem loadTable_cases {budget : Nat} {s s' : State} (h : loadTable budget s = .next s') :
    (∃ e w, s' = takeError e w s) ∨
    (missing (vTbl ||| vTsig ||| vRsig) false s = 0 ∧
      s' = { s with tbl := loadedTable s budget, phase := .tableVerified }) := by
  unfold loadTable raise at h
  split at h
  · exact .inl ⟨_, _, by simpa using h.symm⟩
  · rename_i hm
    split at h
    · exact .inl ⟨_, _, by simpa using h.symm⟩
    · split at h
      · exact .inl ⟨_, _, by simpa using h.symm⟩
      · split at h
        · exact .inl ⟨_, _, by simpa using h.symm⟩
        · exact .inr ⟨not_not.mp hm, by simpa using h.symm⟩

/-! ## Host transactions -/

/-- What the two bounded reads can do (R236, R238). -/
theorem hostReadRange_cases (m : Memory) (size addr n : Nat) (s : State) :
    (addr + n ≤ size ∧ hostReadRange m size addr n s = .next { s with reply := some (.bytes (m.read addr n)) }) ∨
    (size < addr + n ∧ s.phase = .rejected ∧
      hostReadRange m size addr n s = .next { s with reply := some (.bytes (List.replicate n 0)) }) ∨
    (size < addr + n ∧ s.phase ≠ .rejected ∧
      hostReadRange m size addr n s =
        .next (takeError .accessFault (BitVec.ofNat 32 addr) { s with reply := some (.bytes (List.replicate n 0)) })) := by
  unfold hostReadRange
  by_cases h : addr + n ≤ size
  · exact .inl ⟨h, by rw [if_pos (inRange_eq_true.mpr h)]⟩
  · rw [if_neg (by simpa using h)]
    by_cases hp : s.phase = .rejected
    · exact .inr (.inl ⟨by omega, hp, by rw [if_pos hp]⟩)
    · exact .inr (.inr ⟨by omega, hp, by rw [if_neg hp]; rfl⟩)

/-- What a host command does: in `Rejected` only the word of `CLEAR` acts; otherwise an illegal word raises and a legal
one is executed (R231, R259). -/
theorem hostCommand_cases (w : Word) (s : State) :
    (s.phase = .rejected ∧ w = 0x00000002 ∧ hostCommand w s = .next (clearInstance s)) ∨
    (s.phase = .rejected ∧ w ≠ 0x00000002 ∧ hostCommand w s = .next s) ∨
    (s.phase ≠ .rejected ∧ (∃ e, decode w = .error e) ∧ hostCommand w s = raise .illegalCommand w s) ∨
    (s.phase ≠ .rejected ∧ ∃ i, decode w = .ok i ∧ hostCommand w s = exec i s) := by
  unfold hostCommand
  by_cases hp : s.phase = .rejected
  · rw [if_pos hp]
    by_cases hw : w = 0x00000002
    · exact .inl ⟨hp, hw, by rw [if_pos hw]; rfl⟩
    · exact .inr (.inl ⟨hp, hw, by rw [if_neg hw]⟩)
  · rw [if_neg hp]
    cases hd : decode w with
    | error e => exact .inr (.inr (.inl ⟨hp, ⟨e, rfl⟩, rfl⟩))
    | ok i => exact .inr (.inr (.inr ⟨hp, i, rfl, rfl⟩))

end Sys2Proof.Machine
end

