-- ==== Sys2Proof/Laws/PerInstr.lean ====
section
/-! SUPPORT. The per-instruction family `EncodingFields`: what the word of an instruction holds in the three fields of
format `C` (spec/30_encoding.md R90). -/

namespace Sys2Proof.Laws.EncodingFields

open Sys2Proof

/-- The word of a well-formed instruction has the instruction's opcode in bits 7:0, its key count in bits 10:8, and
zeros above (R90, R94). -/
def Statement (i : Instr) : Prop :=
  i.wf = true → wordOp (encode i) = opcode i ∧ wordKn (encode i) = keyCountField i ∧ wordZ (encode i) = 0

/-- The fields of a word built from an opcode and a key count (R90). -/
theorem fields (op kn : Nat) (h1 : op < 256) (h2 : kn < 8) :
    wordOp (BitVec.ofNat 32 (op + 256 * kn)) = op ∧ wordKn (BitVec.ofNat 32 (op + 256 * kn)) = kn ∧
      wordZ (BitVec.ofNat 32 (op + 256 * kn)) = 0 := by
  simp only [wordOp, wordKn, wordZ, BitVec.toNat_ofNat]
  omega

theorem nop : Statement .nop := fun _ => fields _ 0 (by decide) (by decide)
theorem ksLock : Statement .ksLock := fun _ => fields _ 0 (by decide) (by decide)
theorem clear : Statement .clear := fun _ => fields _ 0 (by decide) (by decide)
theorem cbcEnc (kn : Nat) : Statement (.cbcEnc kn) := fun h => fields 0x10 kn (by decide) (by simpa [Instr.wf] using h)
theorem cbcDec (kn : Nat) : Statement (.cbcDec kn) := fun h => fields 0x11 kn (by decide) (by simpa [Instr.wf] using h)
theorem xorBuf : Statement .xorBuf := fun _ => fields _ 0 (by decide) (by decide)
theorem fold8 : Statement .fold8 := fun _ => fields _ 0 (by decide) (by decide)
theorem deriveKek : Statement .deriveKek := fun _ => fields _ 0 (by decide) (by decide)
theorem unwrapKeys : Statement .unwrapKeys := fun _ => fields _ 0 (by decide) (by decide)
theorem wrapKeys : Statement .wrapKeys := fun _ => fields _ 0 (by decide) (by decide)
theorem mac3 : Statement .mac3 := fun _ => fields _ 0 (by decide) (by decide)
theorem foldSig : Statement .foldSig := fun _ => fields _ 0 (by decide) (by decide)
theorem sigHeader : Statement .sigHeader := fun _ => fields _ 0 (by decide) (by decide)
theorem sigTable : Statement .sigTable := fun _ => fields _ 0 (by decide) (by decide)
theorem sigRoot : Statement .sigRoot := fun _ => fields _ 0 (by decide) (by decide)
theorem sigBlock : Statement .sigBlock := fun _ => fields _ 0 (by decide) (by decide)
theorem signBlocks : Statement .signBlocks := fun _ => fields _ 0 (by decide) (by decide)
theorem ldHeader : Statement .ldHeader := fun _ => fields _ 0 (by decide) (by decide)
theorem ldKeys : Statement .ldKeys := fun _ => fields _ 0 (by decide) (by decide)
theorem ldTable : Statement .ldTable := fun _ => fields _ 0 (by decide) (by decide)
theorem ldContent : Statement .ldContent := fun _ => fields _ 0 (by decide) (by decide)
theorem ldVerify : Statement .ldVerify := fun _ => fields _ 0 (by decide) (by decide)
theorem svSeal : Statement .svSeal := fun _ => fields _ 0 (by decide) (by decide)
theorem tableDec : Statement .tableDec := fun _ => fields _ 0 (by decide) (by decide)
theorem tableEnc : Statement .tableEnc := fun _ => fields _ 0 (by decide) (by decide)
theorem contentDec : Statement .contentDec := fun _ => fields _ 0 (by decide) (by decide)
theorem contentEnc : Statement .contentEnc := fun _ => fields _ 0 (by decide) (by decide)

end Sys2Proof.Laws.EncodingFields
end

