-- ==== Sys2Proof/Machine/HostProcedures.lean ====
section
/-! DEFINITION. The host's procedures as the transactions they issue: provisioning (spec/46_management.md R243;
spec/70_reset_and_hazards.md R291), the load and the save of a container (spec/44_load_save_sequencer.md R197, R199; file
offsets of spec/20_memory.md R73), the raw import (R201), and the pseudo-instructions of spec/30_encoding.md R101. They
are not commands: file input and output and the choice of what to write are the host's (spec/00_scope.md R5). What the
lists hold for a file shorter than an offset they need, or for an import of fewer than 32 bytes, is the model's choice:
assumption log 14. -/

namespace Sys2Proof.Machine

open Sys2Proof

/-- `HostCommand` of an instruction's word (R100). -/
def hostRun (i : Instr) : Transaction := .command (encode i)

/-- A data register written whole (`WR`, R100). -/
def hostLoad (d : DataReg) (v : Bytes) : Transaction := .writeReg (Reg.data d).number v

/-- The host's read of `STATUS`, issued after each gate of a load (R197). -/
def readStatus : Transaction := .readReg Reg.status.number

/-- Provisioning: the ten slots, then `KS_LOCK` (R243, R291). -/
def provision (ks : KeyStore) : List Transaction :=
  [.writeKey 0 (bytesOf 8 ks.sigMaster), .writeKey 1 (bytesOf 8 ks.sigHash), .writeKey 2 (bytesOf 16 ks.kbitMaster),
   .writeKey 3 (bytesOf 8 ks.kbitIv), .writeKey 4 (bytesOf 16 ks.kcMaster), .writeKey 5 (bytesOf 8 ks.kcIv),
   .writeKey 6 (bytesOf 8 ks.rootMaster), .writeKey 7 (bytesOf 16 ks.rootHash), .writeKey 8 (bytesOf 8 ks.tableIv),
   .writeKey 9 (bytesOf 8 ks.contentIv), hostRun .ksLock]

/-- The five gates: `LOAD` without the host's register writes (R101). -/
def loadGates : List Instr := [.ldHeader, .ldKeys, .ldTable, .ldContent, .ldVerify]

/-- The bytes of the encrypted table in a file, `HeaderSize - 88` from the header's field (R73, R196, R197). -/
def fileTableBytes (f : Bytes) : Int := (leNat (slice f 20 2) : Int) - (Config.loadFixedBytes : Int)

/-- The host's table transactions of a load: none for a budget outside 8 to 4104 (R197). A file that ends inside the table
gives a shorter write: DESIGN CHOICE, assumption log 14. -/
def loadTableWrites (f : Bytes) : List Transaction :=
  if 8 ≤ fileTableBytes f ∧ fileTableBytes f ≤ (Config.tblBytes : Int) then
    [.writeTbl 0 (slice f 72 (fileTableBytes f).toNat),
     hostLoad .tsig (slice f (72 + (fileTableBytes f).toNat) 8),
     hostLoad .rsig (slice f (80 + (fileTableBytes f).toNat) 8)]
  else []

/-- The load of a file up to the read of the plain table, with the `STATUS` read after each gate (R197). A file that ends
inside a field gives a write of a short string, which is no transaction: DESIGN CHOICE, assumption log 14. -/
def loadFirst (f : Bytes) : List Transaction :=
  [hostLoad .hdr (slice f 0 32), hostLoad .hsig (slice f 32 8), hostRun .ldHeader, readStatus,
   hostLoad .kbit (slice f 40 16), hostLoad .kc (slice f 56 16), hostRun .ldKeys, readStatus] ++
  loadTableWrites f ++ [hostRun .ldTable, readStatus, .readTbl 0 Config.tblBytes]

/-- The rest of the load, to the content buffer at `base`, with the `STATUS` read after each gate and the read of the
decrypted content (R197), which is what the source's `decrypt` writes out (R202); `total` is the `TotalSize` that the
host computes from the plain table it read. A file that ends inside the content gives a shorter write, and a negative
table length counts as 0: DESIGN CHOICE, assumption log 14. -/
def loadRest (f : Bytes) (base total : Nat) : List Transaction :=
  [.setReg Reg.contbase.number base, .writeMem base (slice f (88 + (fileTableBytes f).toNat) total), hostRun .ldContent,
   readStatus, hostRun .ldVerify, readStatus, .readMem base total]

/-- The save: `SV_SEAL`, then the reads whose values are the file, in order (R101 `SAVE`, R199). -/
def saveProcedure (base nb total : Nat) : List Transaction :=
  [hostRun .svSeal, .readReg (Reg.data .hdr).number, .readReg (Reg.data .hsig).number,
   .readReg (Reg.data .kbit).number, .readReg (Reg.data .kc).number, .readTbl 0 nb,
   .readReg (Reg.data .tsig).number, .readReg (Reg.data .rsig).number, .readMem base total]

/-- The two-descriptor plain table of the raw import of `len` bytes, 32 or more (R201); `declared` is the host's
`T_HEADERSIZE`. For fewer than 32 bytes, which R201 does not admit, block 1 has size 0: DESIGN CHOICE, assumption
log 14. -/
def importTable (declared len : Nat) : Bytes :=
  leBytes 4 declared ++ leBytes 4 2 ++ leBytes 4 32 ++ leBytes 4 3 ++ List.replicate 8 0 ++
  leBytes 4 (len - 32) ++ leBytes 4 0 ++ List.replicate 8 0
where
  /-- The `n` bytes of a number, least significant first (spec/00_scope.md R10). -/
  leBytes : Nat → Nat → Bytes
    | 0, _ => []
    | n + 1, v => BitVec.ofNat 8 v :: leBytes n (v / 256)

/-- The raw import of the bytes `v` into the content buffer at `base`, with the header and the working keys that the host
chooses (R101 `IMPORT`, R201). -/
def importProcedure (hdr : BitVec 256) (kbit kc : BitVec 128) (declared base : Nat) (v : Bytes) : List Transaction :=
  [hostLoad .hdr (bytesOf 32 hdr), hostLoad .kbit (bytesOf 16 kbit), hostLoad .kc (bytesOf 16 kc),
   .writeTbl 0 (importTable declared v.length), .setReg Reg.contbase.number base, .writeMem base v,
   hostRun .signBlocks, hostRun .contentEnc]

/-- The source's `encrypt` of raw bytes: the raw import, then the save of its 40-byte table and its content (R202). The
exit status that R202 names is what a read of `ERR` returns after it. -/
def encryptProcedure (hdr : BitVec 256) (kbit kc : BitVec 128) (declared base : Nat) (v : Bytes) : List Transaction :=
  importProcedure hdr kbit kc declared base v ++ saveProcedure base 40 v.length

end Sys2Proof.Machine
end

