-- ==== Sys2Proof/Tests/Slice0.lean ====
section
/-! SUPPORT. Tests: the well-formedness checks, one written-out word per constructor, spec vectors for the commands and
the host transactions, and a witness for the hypotheses of every statement. Expected values are the spec's
(spec/95_test_vectors.md, by their V numbers, or the example of the rule named). -/

namespace Sys2Proof.Machine

open Sys2Proof

set_option Elab.async false

/-! ## Helpers -/

/-- 256 bytes of MEM, `CONTENT_K3` of V50, right after reset. -/
def fresh : State := State.resetWith ⟨256, 0xC0C1C2C3C4C5C6C7⟩ []

/-- The same with the key store TKS1 written and locked. -/
def locked : State := { fresh with ks := testKeys, kspresent := 0x3FF, kslock := true }

/-- The same with HDR1, KB2, KC2 and every valid bit. -/
def ready : State := { locked with hdr := testHdr, kbit := testKbit, kc := testKc, valid := 0xFFF }

/-- A state in `Rejected`. -/
def rejected : State := takeError .lengthError 7 ready

/-- One field of the next state of an answer. -/
def after {α : Type} (r : Result) (f : State → α) : Option α :=
  match r with
  | .next t => some (f t)
  | .fault _ => none
  | .refused _ => none

/-- `ERR` and `ERRINFO` after an answer. -/
def errorOf (r : Result) : Option (BitVec 8 × Word) := after r fun t => (t.err, t.errinfo)

/-- A table of descriptors with the given sizes and flags and zero signatures. -/
def tableOf (blocks : List (Nat × Nat)) : Memory :=
  Memory.write [] 0 (bytesOf 8 (BitVec.ofNat 64 (256 ^ 3 * blocks.length)) ++
    blocks.flatMap fun b => bytesOf 16 (BitVec.ofNat 128 (256 ^ 15 * b.1 + 256 ^ 11 * b.2)))

/-! ## Well-formedness: an ill-formed term for each check -/

theorem test_wf_cbcEnc_key_count : (Instr.cbcEnc 8).wf = false ∧ (Instr.cbcEnc 7).wf = true := by decide
theorem test_wf_cbcDec_key_count : (Instr.cbcDec 8).wf = false ∧ (Instr.cbcDec 7).wf = true := by decide
theorem test_wf_writeKey_slot : (Transaction.writeKey 10 (List.replicate 8 0)).wf = false := by decide
theorem test_wf_writeKey_length : (Transaction.writeKey 2 (List.replicate 8 0)).wf = false := by decide
theorem test_wf_writeReg_number : (Transaction.writeReg 0x07 []).wf = false := by decide
theorem test_wf_writeReg_length : (Transaction.writeReg 0x10 (List.replicate 31 0)).wf = false := by decide
theorem test_wf_writeReg_word_register : (Transaction.writeReg 0x08 (List.replicate 4 0)).wf = false := by decide
theorem test_wf_setReg_number : (Transaction.setReg 0x2A 0).wf = false := by decide
theorem test_wf_setReg_data_register : (Transaction.setReg 0x10 0).wf = false := by decide
theorem test_wf_readReg_number : (Transaction.readReg 0x1B).wf = false := by decide
theorem test_wf_readReg_slot : (Transaction.readReg 0x20).wf = false := by decide
theorem test_step_refuses_no_transaction :
    step { fresh with inbox := [.readReg 0x20] } = .refused .notATransaction := rfl

/-! ## Decoding: each word written out from the encoding table of spec/30_encoding.md R94 -/

theorem test_decode_nop : decode 0b00000000000000000000000000000000 = .ok .nop := by decide
theorem test_decode_ksLock : decode 0b00000000000000000000000000000001 = .ok .ksLock := by decide
theorem test_decode_clear : decode 0b00000000000000000000000000000010 = .ok .clear := by decide
theorem test_decode_cbcEnc : decode 0b00000000000000000000001000010000 = .ok (.cbcEnc 2) := by decide
theorem test_decode_cbcDec : decode 0b00000000000000000000011100010001 = .ok (.cbcDec 7) := by decide
theorem test_decode_xorBuf : decode 0b00000000000000000000000000010010 = .ok .xorBuf := by decide
theorem test_decode_fold8 : decode 0b00000000000000000000000000010011 = .ok .fold8 := by decide
theorem test_decode_deriveKek : decode 0b00000000000000000000000000100000 = .ok .deriveKek := by decide
theorem test_decode_unwrapKeys : decode 0b00000000000000000000000000100001 = .ok .unwrapKeys := by decide
theorem test_decode_wrapKeys : decode 0b00000000000000000000000000100010 = .ok .wrapKeys := by decide
theorem test_decode_mac3 : decode 0b00000000000000000000000000110000 = .ok .mac3 := by decide
theorem test_decode_foldSig : decode 0b00000000000000000000000000110001 = .ok .foldSig := by decide
theorem test_decode_sigHeader : decode 0b00000000000000000000000000110010 = .ok .sigHeader := by decide
theorem test_decode_sigTable : decode 0b00000000000000000000000000110011 = .ok .sigTable := by decide
theorem test_decode_sigRoot : decode 0b00000000000000000000000000110100 = .ok .sigRoot := by decide
theorem test_decode_sigBlock : decode 0b00000000000000000000000000110101 = .ok .sigBlock := by decide
theorem test_decode_signBlocks : decode 0b00000000000000000000000000110110 = .ok .signBlocks := by decide
theorem test_decode_ldHeader : decode 0b00000000000000000000000001000000 = .ok .ldHeader := by decide
theorem test_decode_ldKeys : decode 0b00000000000000000000000001000001 = .ok .ldKeys := by decide
theorem test_decode_ldTable : decode 0b00000000000000000000000001000010 = .ok .ldTable := by decide
theorem test_decode_ldContent : decode 0b00000000000000000000000001000011 = .ok .ldContent := by decide
theorem test_decode_ldVerify : decode 0b00000000000000000000000001000100 = .ok .ldVerify := by decide
theorem test_decode_svSeal : decode 0b00000000000000000000000001001000 = .ok .svSeal := by decide
theorem test_decode_tableDec : decode 0b00000000000000000000000001010000 = .ok .tableDec := by decide
theorem test_decode_tableEnc : decode 0b00000000000000000000000001010001 = .ok .tableEnc := by decide
theorem test_decode_contentDec : decode 0b00000000000000000000000001010010 = .ok .contentDec := by decide
theorem test_decode_contentEnc : decode 0b00000000000000000000000001010011 = .ok .contentEnc := by decide

/-- V4, R95: the three kinds of illegal word. -/
theorem test_decode_illegal :
    decode 0x00000810 = .error .reservedBits ∧ decode 0x00000054 = .error .unknownOpcode ∧
      decode 0x00000102 = .error .keyCountNotAllowed := by decide

/-- The table's numbering of a word, and the step that fetches it first after reset. -/
theorem test_withFetchWord :
    decodeTableWord 32 0x310 = some (.cbcEnc 3) ∧
      errorOf (step (State.reset.withFetchWord 32 0x310)) = some (18, 0x600) := by decide +kernel

/-! ## Commands -/

/-- R239. -/
theorem test_nop : exec .nop ready = .next ready := rfl

/-- R241: slots 0 to 8 present, slot 9 absent. -/
theorem test_ksLock_incomplete :
    errorOf (exec .ksLock { fresh with kspresent := 0x1FF }) = some (8, 0x00000200) := by decide +kernel

theorem test_ksLock : after (exec .ksLock { fresh with kspresent := 0x3FF }) State.kslock = some true := by decide +kernel

/-- R240: from `Rejected`. -/
theorem test_clear :
    after (exec .clear rejected) (fun t => (t.phase, t.err, t.kslock, t.ks == testKeys)) =
      some (.unloaded, 0, true, true) := by decide +kernel

/-- A state with the key string K3X, a zero IV and `0011223344556677` at the end of MEM. -/
def cipherState (a2 : Word) : State :=
  { fresh with ckey := 0x0123456789ABCDEF23456789ABCDEF01456789ABCDEF0123, valid := 0x600, a0 := 248, a1 := 8, a2 := a2,
               mem := Memory.write [] 248 (bytesOf 8 (0x0011223344556677 : Block)) }

/-- R143: the 3-key result for K3X. -/
theorem test_cbcEnc : after (exec (.cbcEnc 3) (cipherState 8)) (fun t => t.mem.read 8 8) =
    some (bytesOf 8 (0x109AEAC4D79BFADD : Block)) := by decide +kernel

/-- R259: `KN = 4` and `A[2] = 7` raise `InvalidKeyCount(4)`. -/
theorem test_cbcEnc_order : errorOf (exec (.cbcEnc 4) (cipherState 7)) = some (1, 4) := by decide +kernel

/-- R143: the 2-key result for K3X, decrypted in place. -/
theorem test_cbcDec : after (exec (.cbcDec 2) { cipherState 8 with
      a1 := 248, mem := Memory.write [] 248 (bytesOf 8 (0xD54BD4EB46750CD1 : Block)) }) (fun t => t.mem.read 248 8) =
    some (bytesOf 8 (0x0011223344556677 : Block)) := by decide +kernel

/-- V17: a source range that runs past the end. -/
theorem test_cbcDec_range : errorOf (exec (.cbcDec 1) { cipherState 8 with a0 := 0xF9 }) = some (20, 0xF9) := by
  decide +kernel

/-- R140. -/
theorem test_xorBuf : after (exec .xorBuf { fresh with
      a0 := 0, a1 := 0x10, a2 := 5, a3 := 0x20,
      mem := (Memory.write [] 0 [0x00, 0xFF, 0x55, 0xAA, 0x0F]).write 0x10 [0xFF, 0xFF, 0x00, 0xAA, 0xF0] })
    (fun t => t.mem.read 0x20 5) = some [0xFF, 0x00, 0x55, 0x00, 0xFF] := by decide +kernel

/-- R141. -/
theorem test_fold8 : after (exec .fold8 { fresh with
      valid := 0x100, a2 := 24,
      mem := Memory.write [] 0 (bytesOf 24 (0x010203040506070811121314151617182122232425262728 : BitVec 192)) })
    State.dig = some 0x3132333435363738 := by decide +kernel

/-- R154. -/
theorem test_deriveKek : after (exec .deriveKek { locked with hdr := testHdr, valid := 1 }) (fun t => (t.kek, t.valid)) =
    some (0x079577BBFCC1E918ECAF4640C524EE6A, 0x011) := by decide +kernel

/-- R155, with the key store not locked; `KC`'s half. -/
theorem test_unwrapKeys : after (exec .unwrapKeys { fresh with
      valid := 0x01C, kek := 0x079577BBFCC1E918ECAF4640C524EE6A, kc := 0x90E9ACC29224F43342462F133F28FE40 }) State.kc =
    some 0xA0A1A2A3A4A5A6A7B0B1B2B3B4B5B6B7 := by decide +kernel

/-- R156. -/
theorem test_wrapKeys : after (exec .wrapKeys { fresh with
      valid := 0x01C, kek := 0x079577BBFCC1E918ECAF4640C524EE6A, kbit := 0xAAAAAAAAAAAAAAAAAAAAAAAAAAAAAAAA }) State.kbit =
    some 0xA8BDB5CE951C9ACAA8BDB5CE951C9ACA := by decide +kernel

/-- R170. -/
theorem test_mac3 : after (exec .mac3 { locked with a2 := 16, mem := Memory.write [] 0 testBlock1 }) State.sig =
    some 0x4B4C9B28FAEABFC0 := by decide +kernel

/-- R170: n = 0. -/
theorem test_mac3_empty : errorOf (exec .mac3 locked) = some (19, 0) := by decide +kernel

/-- V34: the signature of the empty message. -/
theorem test_foldSig_empty : after (exec .foldSig locked) State.sig = some 0x08D7B4FB629D0885 := by decide +kernel

/-- R172. -/
theorem test_sigHeader : after (exec .sigHeader ready) State.sig = some 0x88454B361C313CC6 := by decide +kernel

/-- V36: halves that differ only in a parity bit count as different. -/
theorem test_sigTable : after (exec .sigTable { ready with
      kbit := 0x55555555555555555454545454545454, kc := 0x44444444444444444444444444444444,
      tbl := Memory.write [] 0 [0x60] }) State.sig = some 0x2B53862042D9F247 := by decide +kernel

/-- V37: a table of no blocks. -/
theorem test_sigRoot : after (exec .sigRoot { ready with hsig := 0x88454B361C313CC6, tsig := 0x76344B056AD98C0C })
    State.sig = some 0xE3E725C947C7EE62 := by decide +kernel

/-- V38: block 1 of BL1, the three-step scheme at `CONTBASE + Offset(1)`. -/
theorem test_sigBlock : after (exec .sigBlock { ready with
      a0 := 1, contbase := 0x40, tbl := tableOf [(32, 3), (16, 2), (16, 0)], mem := Memory.write [] 0x60 testBlock1 })
    State.sig = some 0x4B4C9B28FAEABFC0 := by decide +kernel

/-- V38: an index equal to `T_COUNT`. -/
theorem test_sigBlock_index : errorOf (exec .sigBlock { ready with
      a0 := 3, tbl := tableOf [(32, 3), (16, 2), (16, 0)] }) = some (20, 3) := by decide +kernel

/-- V39: one block of size 0, flags 3. -/
theorem test_signBlocks : after (exec .signBlocks { ready with tbl := tableOf [(0, 3)] }) (fun t => dSig t.tbl 0) =
    some 0x08D7B4FB629D0885 := by decide +kernel

/-- V39: block 1 of size 4; nothing was stored before it. -/
theorem test_signBlocks_length : errorOf (exec .signBlocks { ready with tbl := tableOf [(8, 2), (4, 2)] }) =
    some (19, 1) := by decide +kernel

/-- R191. -/
theorem test_ldHeader : after (exec .ldHeader { ready with hsig := 0x88454B361C313CC6 }) State.phase =
    some .headerRead := by decide +kernel

/-- R191: `BitCount` 1 gives `ERRINFO` 0x00010020. -/
theorem test_ldHeader_variant : errorOf (exec .ldHeader { ready with
      hdr := 0x000102030405060708090A0B0C0D0E0F400000009000000120000100FFFFFFFF }) = some (2, 0x00010020) := by
  decide +kernel

/-- R192. -/
theorem test_ldKeys : after (exec .ldKeys { ready with
      phase := .headerRead, kbit := 0xB067900802F051DB54C3161B974AFC3A }) (fun t => (t.kbit, t.phase)) =
    some (testKbit, .keysUnwrapped) := by decide +kernel

/-- The state before `LD_TABLE` of CON3, the container of no blocks (V65). -/
def emptyContainer : State :=
  { ready with
    phase := .keysUnwrapped, hdr := 0x0000000000000000000000000000000000000000600000001000000000000000,
    hsig := 0x4A1247B565AB074F, tsig := 0x32892CDABAC0E500, rsig := 0x31BA384098CA557A,
    tbl := Memory.write [] 0 (bytesOf 8 (0x071AA40AA5807C96 : Block)) }

/-- V65. -/
theorem test_ldTable : after (exec .ldTable emptyContainer) (fun t => (t.phase, t.tbl)) =
    some (.tableVerified, [(0, 0x60)]) := by decide +kernel

/-- R193: `HeaderSize` = 0. -/
theorem test_ldTable_budget : errorOf (exec .ldTable { ready with phase := .keysUnwrapped, hdr := 0 }) =
    some (7, 0xFFFFFFA8) := by decide +kernel

/-- R194: no ENCRYPTED block passes whatever the selector is. -/
theorem test_ldContent : after (exec .ldContent { ready with
      phase := .tableVerified, hdr := 0, tbl := tableOf [(12, 2)] }) State.phase = some .contentDecrypted := by
  decide +kernel

/-- R195: the second block is the first that fails. -/
theorem test_ldVerify : errorOf (exec .ldVerify { ready with
      phase := .contentDecrypted, tbl := tableOf [(8, 0), (8, 3)] }) = some (6, 1) := by decide +kernel

/-- V65: the root signature that `SV_SEAL` leaves for the table of no blocks, from the header and table signatures that it
computed. -/
theorem test_svSeal : after (exec .svSeal { emptyContainer with tbl := Memory.write [] 0 [0x60], hsig := 0, tsig := 0 })
    State.rsig = some 0x31BA384098CA557A := by decide +kernel

/-- V43: `A[2]` = 4112. -/
theorem test_tableDec_size : errorOf (exec .tableDec { ready with a2 := 4112 }) = some (7, 0x1010) := by decide +kernel

/-- V65: the table of no blocks. -/
theorem test_tableEnc : after (exec .tableEnc { ready with tbl := Memory.write [] 0 [0x60] }) (fun t => t.tbl.read 0 8) =
    some (bytesOf 8 (0x071AA40AA5807C96 : Block)) := by decide +kernel

/-- V56: `CONTBASE` = 0xE0, `TotalSize` = 64. -/
theorem test_contentDec_range : errorOf (exec .contentDec { ready with
      contbase := 0xE0, tbl := tableOf [(32, 3), (16, 2), (16, 0)] }) = some (20, 0xE0) := by decide +kernel

/-- V50, its first 8 bytes: selector 1, an ENCRYPTED block behind a plain one. -/
theorem test_contentEnc : after (exec .contentEnc { ready with
      hdr := 0x000102030405060708090A0B0C0D0E0F400000009000000110000000FFFFFFFF, contbase := 0x40,
      tbl := tableOf [(8, 0), (8, 1)], mem := Memory.write [] 0x48 (testBlock0.take 8) })
    (fun t => t.mem.read 0x48 8) = some (bytesOf 8 (0xBBC663D51B39B178 : Block)) := by decide +kernel

/-! ## Host transactions -/

/-- R257: `SIG_TABLE` with only `KBIT` written and the key store not locked. -/
theorem test_need_mask : errorOf (exec .sigTable { fresh with valid := 0x004 }) = some (18, 0x80000808) := by
  decide +kernel

/-- R256: the whole word is the detail. -/
theorem test_illegal_command : errorOf (step { fresh with inbox := [.command 0x80000010] }) = some (16, 0x80000010) := by
  decide +kernel

/-- R233: a write of a register and its read back (R234); `SIG` ignores the write. -/
theorem test_writeReg : after (step { fresh with inbox := [.writeReg 0x15 (bytesOf 8 (0x76344B056AD98C0C : Block))] })
    (fun t => (t.tsig, t.valid)) = some (0x76344B056AD98C0C, 0x020) := by decide +kernel

theorem test_write_sig_ignored :
    step { ready with inbox := [.writeReg 0x17 (List.replicate 8 1)] } = .next ready := rfl

/-- R25: `STATUS` in `Rejected` with the key store locked. -/
theorem test_read_status :
    after (step { rejected with inbox := [.readReg 1] }) State.reply = some (some (.number 0xF)) := by decide +kernel

/-- R236: an out-of-range read of `TBL`. -/
theorem test_readTbl_range : after (step { fresh with inbox := [.readTbl 4100 8] })
    (fun t => (t.err, t.errinfo, t.reply)) = some (20, 4100, some (.bytes (List.replicate 8 0))) := by decide +kernel

/-- R232: a slot after `KS_LOCK`. -/
theorem test_writeKey_locked :
    errorOf (step { locked with inbox := [.writeKey 7 (List.replicate 16 0)] }) = some (21, 7) := by decide +kernel

/-- R46, R242: reset drops the key store and gives MEM its free contents. -/
theorem test_reset : after (step { rejected with inbox := [.reset [(5, 9)]] })
    (fun t => (t.phase, t.kslock, t.mem)) = some (.unloaded, false, [(5, 9)]) := by decide +kernel

/-- P3: the table of the raw import of 64 bytes, with `T_HEADERSIZE` 128. -/
theorem test_importTable : importTable 128 64 =
    bytesOf 40 (0x80000000020000002000000003000000000000000000000020000000000000000000000000000000 : BitVec 320) := by
  decide +kernel

/-- R197: `STATUS` is read after each of the first three gates, and the content at the end. -/
theorem test_load_reads : (loadFirst (List.replicate 88 0)).count readStatus = 3 ∧
    (loadRest [] 0x200 64).getLast? = some (.readMem 0x200 64) := by decide +kernel

/-! ## Witnesses: for every statement, states and operands that meet the hypotheses of each of its clauses -/

theorem witness_DecoderFollowsItsSteps :
    ((0x310 : Word).extractLsb' 0 8).toNat = 0x10 ∧ ((0x310 : Word).extractLsb' 8 3).toNat = 3 ∧
      ((0x310 : Word).extractLsb' 11 21).toNat = 0 ∧ decode 0x310 = .ok (.cbcEnc 3) := by decide

theorem witness_DecodeAndEncodeAgree : (Instr.cbcDec 7).wf = true ∧ encode (.cbcDec 7) = 0x711 := by decide

theorem witness_StepRunsTheDecodedCommand :
    { fresh with inbox := [.command 2, .readReg 1] }.inbox = .command 2 :: [.readReg 1] ∧
      { rejected with inbox := [.command 0] }.inbox = .command 0 :: [] ∧ decode 2 = .ok .clear ∧
      decode 0 = .ok .nop := by decide +kernel

theorem witness_IllegalWordRaisesIllegalCommand :
    { fresh with inbox := [.command 3] }.inbox = .command 3 :: [] ∧ fresh.phase ≠ .rejected ∧
      decode 3 = .error .unknownOpcode := by decide

theorem witness_StepConsumesOneTransaction :
    fresh.inbox = [] ∧
    (∃ t, step { fresh with inbox := [.readReg 1] } = .next t) ∧ isRead (.readReg 1) = true ∧
    (∃ t, step { fresh with inbox := [.command 0x110] } = .next t) ∧ isRead (.command 0x110) = false :=
  ⟨rfl, ⟨_, rfl⟩, rfl, ⟨_, rfl⟩, rfl⟩

theorem witness_EveryTransactionCompletes :
    (Transaction.writeKey 9 (List.replicate 8 0)).wf = true ∧ (Transaction.writeKey 9 (List.replicate 9 0)).wf = false := by
  decide

theorem witness_HostWriteRegFollowsItsRule :
    fresh.phase ≠ .rejected ∧ DataReg.ckey ≠ .sig ∧ (List.replicate 24 (1 : Byte)).length = DataReg.ckey.bytes ∧
    (Transaction.writeReg (Reg.data .ckey).number (List.replicate 24 1)).wf = true ∧
    (Transaction.writeReg (Reg.data .sig).number []).wf = true ∧
    (Transaction.setReg (Reg.a 3).number (2 ^ 32)).wf = true ∧ (Transaction.setReg Reg.contbase.number (2 ^ 32)).wf = true ∧
    (Transaction.setReg Reg.kspresent.number 1).wf = true ∧
    Reg.kspresent ∈ [Reg.status, .err, .errinfo, .valid, .kspresent] ∧
    (Transaction.setReg (Reg.data .sig).number (2 ^ 32)).wf = true ∧ (Transaction.writeReg Reg.status.number []).wf = true ∧
    (Transaction.writeReg (Reg.slot .contentIv).number (List.replicate 8 1)).wf = true ∧
    (Transaction.setReg Reg.cmd.number (2 : Word).toNat).wf = true := by decide

theorem witness_HostStoresFollowTheirRules :
    fresh.phase ≠ .rejected ∧ fresh.kslock = false ∧ locked.kslock = true ∧ locked.phase ≠ .rejected ∧
    (List.replicate 16 (0 : Byte)).length = Slot.rootHash.bytes ∧
    4096 + (List.replicate 8 (1 : Byte)).length ≤ 4104 ∧ fresh.tbl.wf = true ∧
    4104 < 4097 + (List.replicate 8 (1 : Byte)).length ∧
    Fits fresh 248 (List.replicate 8 (1 : Byte)).length ∧ fresh.mem.wf = true ∧
    ¬ Fits fresh 249 (List.replicate 8 (1 : Byte)).length := by simp only [Fits]; decide

theorem witness_HostReadsReturnTheState :
    regValue (.data .sig) ready = some (.bytes (List.replicate 8 0)) ∧
    (Transaction.readReg (Reg.data .sig).number).wf = true ∧
    invalidIsZero fresh = true ∧ fresh.valid.getLsbD DataReg.civ.index = false ∧
    Fits fresh 256 0 ∧ ¬ Fits fresh 256 1 ∧ 4104 + 0 ≤ 4104 ∧ 4104 < 4104 + 1 ∧
    rejected.phase = .rejected ∧ fresh.phase ≠ .rejected := by simp only [Fits]; decide +kernel

theorem witness_NeedMaskBits : 11 < 12 ∧ 12 ≤ 12 ∧ 12 ≠ 31 := by decide

theorem witness_ErrorsArePrecise :
    (∃ t, exec .mac3 locked = .next t ∧ locked.phase ≠ .rejected ∧ t.phase = .rejected) ∧
    (∃ t, step { locked with inbox := [.readMem 256 1] } = .next t ∧ t.phase = .rejected) :=
  ⟨⟨_, rfl, by decide, rfl⟩, ⟨_, rfl, rfl⟩⟩

theorem witness_RejectedIgnoresAllButReadsClearReset :
    rejected.phase = .rejected ∧
    (Transaction.command 1).wf = true ∧ isRead (.command 1) = false ∧ isClear (.command 1) = false ∧
    isReset (.command 1) = false ∧ (Transaction.readTbl 4104 1).wf = true ∧ isRead (.readTbl 4104 1) = true ∧
    isClear (.setReg 0 2) = true ∧ (Transaction.setReg 0 2).wf = true ∧
    (∃ t, step { rejected with inbox := [.command 2] } = .next t ∧ t.phase ≠ .rejected) :=
  ⟨rfl, rfl, rfl, rfl, rfl, rfl, rfl, rfl, rfl, ⟨_, rfl, by decide⟩⟩

theorem witness_PhaseTransitionTable :
    gateOf .ldKeys = some (.headerRead, .keysUnwrapped) ∧
    (∃ t, exec .ldKeys { ready with phase := .headerRead } = .next t) ∧
    ready.phase ≠ .headerRead ∧ ready.phase ≠ .rejected ∧
    gateOf .mac3 = none ∧ Instr.mac3 ≠ .clear ∧ (∃ t, exec .mac3 locked = .next t) ∧ rejected.phase = .rejected ∧
    (∃ t, step { ready with inbox := [.reset []] } = .next t) ∧ isReset (.reset []) = true ∧
    (∃ t, step { ready with inbox := [.writeTbl 4104 []] } = .next t) ∧ isReset (.writeTbl 4104 []) = false ∧
    isClear (.writeTbl 4104 []) = false :=
  ⟨rfl, ⟨_, rfl⟩, by decide, by decide, rfl, by decide, ⟨_, rfl⟩, rfl, ⟨_, rfl⟩, rfl, ⟨_, rfl⟩, rfl, rfl⟩

theorem witness_ResetLeavesTheStatedValues :
    Memory.wf [(0, 1), (255, 9)] = true ∧ Memory.below [(0, 1), (255, 9)] fresh.params.memSize.val = true := by decide

theorem witness_KsLockFollowsItsRule :
    locked.kslock = true ∧ locked.phase ≠ .rejected ∧ fresh.kslock = false ∧ fresh.kspresent ≠ 0x3FF ∧
      { fresh with kspresent := 0x3FF }.kspresent = 0x3FF := by decide

theorem witness_ClearStartsAFreshInstance : Instr.ldHeader ≠ .clear ∧ rejected.phase = .rejected := by decide +kernel

/-- For `CbcEncFollowsItsRule` and `CbcDecFollowsItsRule`: the five errors at their boundaries, and the store. -/
theorem witness_CipherCommandRule :
    missing (vCkey ||| vCiv) false fresh ≠ 0 ∧ fresh.phase ≠ .rejected ∧
    Ready (vCkey ||| vCiv) false (cipherState 8) ∧ (cipherState 7).a2.toNat % 8 ≠ 0 ∧
    Ready (vCkey ||| vCiv) false (cipherState 7) ∧
    ¬ Fits { cipherState 8 with a0 := 249 } 249 8 ∧ ¬ Fits { cipherState 8 with a1 := 249 } 249 8 ∧
    Fits (cipherState 8) 248 8 ∧ Fits (cipherState 8) 8 8 ∧ (cipherState 8).mem.wf = true ∧
    (cipherState 8).a2.toNat % 8 = 0 ∧
    (∃ k, SelectsKey 3 (cipherState 8).ckey k) ∧ (4 ≠ 1 ∧ 4 ≠ 2 ∧ 4 ≠ 3) := by
  refine ⟨?_, ?_, ?_, ?_, ?_, ?_, ?_, ?_, ?_, ?_, ?_, ⟨_, .inr (.inr ⟨rfl, rfl⟩)⟩, ?_⟩ <;>
    (try simp only [Ready, Fits]) <;> decide +kernel

theorem witness_XorBufFollowsItsRule :
    fresh.phase ≠ .rejected ∧ ¬ Fits fresh 252 5 ∧ Fits fresh 251 5 ∧ fresh.mem.wf = true ∧
      { fresh with a0 := 252, a1 := 251, a2 := 5, a3 := 251 }.a0.toNat = 252 := by simp only [Fits]; decide

theorem witness_Fold8FollowsItsRule :
    missing vDig false fresh ≠ 0 ∧ Ready vDig false ready ∧ { ready with a2 := 8 }.a2.toNat % 8 = 0 ∧
      Ready vDig false { ready with a2 := 12 } ∧ { ready with a2 := 12 }.a2.toNat % 8 ≠ 0 ∧
      Fits { ready with a0 := 248, a2 := 8 } 248 8 ∧ ¬ Fits { ready with a0 := 249, a2 := 8 } 249 8 := by
  simp only [Ready, Fits]; decide +kernel

/-- For the statements about `DERIVE_KEK`, `SIG_HEADER`, `MAC3` and `FOLDSIG`. -/
theorem witness_keyed_commands :
    fresh.phase ≠ .rejected ∧ missing vHdr true fresh ≠ 0 ∧ Ready vHdr true ready ∧
    missing 0 true fresh ≠ 0 ∧ Ready 0 true locked ∧
    ¬ (locked.a2.toNat % 8 = 0 ∧ 8 ≤ locked.a2.toNat) ∧
    { locked with a2 := 8 }.a2.toNat % 8 = 0 ∧ 8 ≤ { locked with a2 := 8 }.a2.toNat ∧
    Ready 0 true { locked with a2 := 8 } ∧ Ready 0 true { locked with a2 := 9 } ∧
    { locked with a2 := 9 }.a2.toNat % 8 ≠ 0 ∧ Fits locked 248 8 ∧ ¬ Fits locked 249 8 := by
  simp only [Ready, Fits]; decide +kernel

/-- For the statements about `UNWRAP_KEYS` and `WRAP_KEYS`, and for `WrapAndUnwrapAreInverse`. -/
theorem witness_UnwrapAndWrap :
    missing (vKbit ||| vKc ||| vKek) false fresh ≠ 0 ∧ Ready (vKbit ||| vKc ||| vKek) false ready ∧
      Ready (vKbit ||| vKc ||| vKek) false { fresh with valid := 0x01C } := by simp only [Ready]; decide +kernel

/-- For `SigTableFollowsItsRule`, `SigRootFollowsItsRule`, `TableEncFollowsItsRule` and `SvSealFollowsItsRule`: the
largest count that passes and the smallest that does not. -/
theorem witness_table_commands :
    missing (vKbit ||| vKc ||| vTbl) true fresh ≠ 0 ∧ missing (vHsig ||| vTsig ||| vTbl) true fresh ≠ 0 ∧
    missing (vKbit ||| vTbl) true fresh ≠ 0 ∧ missing (vHdr ||| vKbit ||| vKc ||| vTbl) true fresh ≠ 0 ∧
    Ready (vKbit ||| vKc ||| vTbl) true { ready with tbl := [(5, 1)] } ∧
    Ready (vHsig ||| vTsig ||| vTbl) true { ready with tbl := [(5, 1)] } ∧
    Ready (vKbit ||| vTbl) true { ready with tbl := [(5, 1)] } ∧
    Ready (vHdr ||| vKbit ||| vKc ||| vTbl) true { ready with tbl := [(5, 1)] } ∧
    tCount [(5, 1)] = 256 ∧ tCount [(4, 1), (5, 1)] = 257 ∧ Memory.wf [(5, 1)] = true := by
  simp only [Ready]; decide +kernel

theorem witness_TableDecFollowsItsRule :
    missing (vKbit ||| vTbl) true fresh ≠ 0 ∧ Ready (vKbit ||| vTbl) true { ready with a2 := 4104 } ∧
      { ready with a2 := 4104 }.a2.toNat % 8 = 0 ∧ { ready with a2 := 4105 }.a2.toNat > 4104 ∧
      { ready with a2 := 4103 }.a2.toNat % 8 ≠ 0 ∧ ready.tbl.wf = true := by simp only [Ready]; decide +kernel

/-- A state with 64 bytes of content at the end of MEM and a table with an ENCRYPTED and SIGNED block, a SIGNED one and a
plain one. -/
def contentState : State := { ready with contbase := 192, a0 := 2, tbl := tableOf [(32, 3), (16, 2), (16, 0)] }

/-- For `SigBlockFollowsItsRule`, `SignBlocksFollowsItsRule`, `LdVerifyFollowsItsRule` and the content commands: the
checks that come before the blocks. -/
theorem witness_content_checks :
    missing vTbl true fresh ≠ 0 ∧ missing (vHdr ||| vKc ||| vTbl) true fresh ≠ 0 ∧
    Ready vTbl true contentState ∧ Ready (vHdr ||| vKc ||| vTbl) true contentState ∧
    { contentState with tbl := [(4, 1), (5, 1)] }.phase ≠ .rejected ∧ tCount [(4, 1), (5, 1)] = 257 ∧
    tCount contentState.tbl = 3 ∧ contentState.a0.toNat < 3 ∧ { contentState with a0 := 3 }.a0.toNat = 3 ∧
    totalSize contentState.tbl = 64 ∧ Fits contentState 192 64 ∧ ¬ Fits { contentState with contbase := 193 } 193 64 ∧
    contentState.mem.wf = true ∧ contentState.tbl.wf = true := by simp only [Ready, Fits]; decide +kernel

theorem witness_SigBlockFollowsItsRule :
    isEncrypted contentState.tbl 0 = true ∧ dSize contentState.tbl 0 % 8 = 0 ∧
    isEncrypted contentState.tbl 2 = false ∧ dSize contentState.tbl 2 % 8 = 0 ∧ 8 ≤ dSize contentState.tbl 2 ∧
    isEncrypted (tableOf [(0, 2)]) 0 = false ∧ dSize (tableOf [(0, 2)]) 0 < 8 ∧ dSize (tableOf [(12, 3)]) 0 % 8 ≠ 0 := by
  decide +kernel

theorem witness_SignBlocksFollowsItsRule :
    (∀ i < 3, isSigned contentState.tbl i = true → blockLenOk contentState.tbl i = true) ∧
    isSigned (tableOf [(8, 2), (4, 2)]) 1 = true ∧ blockLenOk (tableOf [(8, 2), (4, 2)]) 1 = false ∧
    (∀ j < 1, isSigned (tableOf [(8, 2), (4, 2)]) j = true → blockLenOk (tableOf [(8, 2), (4, 2)]) j = true) := by
  decide +kernel

theorem witness_LdHeaderFollowsItsRule :
    missing (vHdr ||| vHsig) true fresh ≠ 0 ∧ fresh.phase = .unloaded ∧ Ready (vHdr ||| vHsig) true ready ∧
    hdrFlags testHdr % 2 = 0 ∧ hdrBitCount testHdr = 0 ∧
    hdrFlags 0x000102030405060708090A0B0C0D0E0F400000009000000121000000FFFFFFFF % 2 = 1 ∧
    mac3 ready.ks (bytesOf 32 ready.hdr) ≠ ready.hsig ∧
    { ready with phase := .verified }.phase ≠ .unloaded ∧ { ready with phase := .verified }.phase ≠ .rejected := by
  simp only [Ready]; decide +kernel

/-- The equation that the last clause of `LdHeaderFollowsItsRule` assumes. -/
theorem witness_LdHeaderFollowsItsRule_signature :
    mac3 ready.ks (bytesOf 32 { ready with hsig := 0x88454B361C313CC6 }.hdr) =
      { ready with hsig := 0x88454B361C313CC6 }.hsig := by decide +kernel

theorem witness_LdKeysFollowsItsRule :
    { fresh with phase := .headerRead }.phase = .headerRead ∧
    missing (vHdr ||| vKbit ||| vKc) true { fresh with phase := .headerRead } ≠ 0 ∧
    Ready (vHdr ||| vKbit ||| vKc) true { ready with phase := .headerRead } ∧
    ready.phase ≠ .headerRead ∧ ready.phase ≠ .rejected := by simp only [Ready]; decide +kernel

/-- The checks of `LD_TABLE` before the decryption, at the boundaries of the budget. -/
theorem witness_LdTableFollowsItsRule :
    missing (vHdr ||| vHsig ||| vKbit ||| vKc) true { fresh with phase := .keysUnwrapped } ≠ 0 ∧
    Ready (vHdr ||| vHsig ||| vKbit ||| vKc) true emptyContainer ∧ hdrHeaderSize emptyContainer.hdr = 96 ∧
    hdrHeaderSize 0x0000000000000000000000000000000000000000611000000000000000000000 = 4193 ∧
    hdrHeaderSize 0x00000000000000000000000000000000000000005F0000000000000000000000 = 95 ∧
    (hdrHeaderSize 0x0000000000000000000000000000000000000000610000000000000000000000 - 88) % 8 ≠ 0 ∧
    missing (vTbl ||| vTsig ||| vRsig) false { emptyContainer with valid := 0x00F } ≠ 0 ∧
    Ready (vHdr ||| vHsig ||| vKbit ||| vKc) true { emptyContainer with valid := 0x00F } ∧
    Ready (vTbl ||| vTsig ||| vRsig) false emptyContainer ∧ emptyContainer.tbl.wf = true := by
  simp only [Ready]; decide +kernel

/-- The decrypted table of no blocks: its count, and the signatures that the last clauses of `LdTableFollowsItsRule`
compare. -/
theorem witness_LdTableFollowsItsRule_signatures :
    cbcDec (.two (emptyContainer.kbit.extractLsb' 64 64) (emptyContainer.kbit.extractLsb' 0 64))
      emptyContainer.ks.tableIv (emptyContainer.tbl.read 0 8) = [0x60, 0, 0, 0, 0, 0, 0, 0] ∧
    tableSig emptyContainer.ks emptyContainer.kbit emptyContainer.kc [0x60, 0, 0, 0, 0, 0, 0, 0] =
      emptyContainer.tsig ∧
    rootSig emptyContainer.ks emptyContainer.hsig emptyContainer.tsig [(0, 0x60)] = emptyContainer.rsig := by
  refine ⟨?_, ?_, ?_⟩ <;> decide +kernel

/-- The blocks that the last clauses of the content commands and of `LD_VERIFY` speak of. -/
theorem witness_ContentRule :
    contentKn testHdr = 2 ∧ contentKn 0 = 0 ∧ (∃ k, SelectsKey 2 (testKc ++ fresh.params.contentK3) k) ∧
    isEncrypted contentState.tbl 0 = true ∧
    (∀ j < 3, isEncrypted contentState.tbl j = true → dSize contentState.tbl j % 8 = 0) ∧
    (∀ j < 1, isEncrypted (tableOf [(12, 2)]) j = false) ∧
    isEncrypted (tableOf [(8, 0), (12, 1)]) 1 = true ∧ dSize (tableOf [(8, 0), (12, 1)]) 1 % 8 ≠ 0 ∧
    (∀ b < 1, isEncrypted (tableOf [(8, 0), (12, 1)]) b = true → dSize (tableOf [(8, 0), (12, 1)]) b % 8 = 0) := by
  refine ⟨?_, ?_, ⟨_, .inr (.inl ⟨rfl, rfl⟩)⟩, ?_, ?_, ?_, ?_, ?_, ?_⟩ <;> decide +kernel

/-- `LD_CONTENT` from its phase and from another one. -/
theorem witness_LdContentFollowsItsRule :
    { contentState with phase := .tableVerified }.phase = .tableVerified ∧
    Ready (vHdr ||| vKc ||| vTbl) true { contentState with phase := .tableVerified } ∧
    contentState.phase ≠ .tableVerified ∧ contentState.phase ≠ .rejected := by simp only [Ready]; decide +kernel

/-- A state before `LD_VERIFY` whose one SIGNED block has the signature of the empty message (V34). -/
def verifyState : State :=
  { ready with phase := .contentDecrypted,
               tbl := (tableOf [(0, 3)]).write 16 (bytesOf 8 (0x08D7B4FB629D0885 : Block)) }

theorem witness_LdVerifyFollowsItsRule :
    Ready vTbl true verifyState ∧ tCount verifyState.tbl = 1 ∧ isSigned verifyState.tbl 0 = true ∧
    blockLenOk verifyState.tbl 0 = true ∧ blockSig verifyState 0 = dSig verifyState.tbl 0 ∧
    blockSig { verifyState with tbl := tableOf [(0, 3)] } 0 ≠ dSig (tableOf [(0, 3)]) 0 ∧
    blockLenOk (tableOf [(0, 2)]) 0 = false ∧ isSigned (tableOf [(0, 2)]) 0 = true := by
  simp only [Ready]; decide +kernel

/-- A state before `LD_VERIFY` with one ENCRYPTED and SIGNED block of 8 bytes at the end of MEM (V33). -/
def tamperState : State :=
  { verifyState with contbase := 248, mem := Memory.write [] 248 (bytesOf 8 (0x0011223344556677 : Block)),
                     tbl := (tableOf [(8, 3)]).write 16 (bytesOf 8 (0x31A7364CAC91CA39 : Block)) }

/-- The same block SIGNED and not ENCRYPTED: on 8 bytes the two schemes coincide (V31). -/
def plainTamperState : State :=
  { tamperState with tbl := (tableOf [(8, 2)]).write 16 (bytesOf 8 (0x31A7364CAC91CA39 : Block)) }

/-- The header clauses' hypotheses are those of `witness_LdHeaderFollowsItsRule` and its signature. -/
theorem witness_TamperingIsCaughtAtTheGates :
    Ready vTbl true tamperState ∧ tamperState.mem.wf = true ∧ tCount tamperState.tbl = 1 ∧
    Fits tamperState tamperState.contbase.toNat (totalSize tamperState.tbl) ∧
    isSigned tamperState.tbl 0 = true ∧ blockLenOk tamperState.tbl 0 = true ∧
    blockSig tamperState 0 = dSig tamperState.tbl 0 ∧
    tamperState.contbase.toNat + blockOffset tamperState.tbl 0 ≤ 255 ∧
    255 < tamperState.contbase.toNat + blockOffset tamperState.tbl 0 + dSize tamperState.tbl 0 ∧
    isEncrypted tamperState.tbl 0 = true ∧ 0x76 ≠ tamperState.mem.get 255 ∧
    0x76 = tamperState.mem.get 255 ^^^ (1#8 <<< 0) ∧ 0xF7 = tamperState.mem.get 255 ^^^ (1#8 <<< 7) := by
  simp only [Ready, Fits]; decide +kernel

theorem witness_TamperingIsCaughtAtTheGates_plain :
    Ready vTbl true plainTamperState ∧ plainTamperState.mem.wf = true ∧ tCount plainTamperState.tbl = 1 ∧
    Fits plainTamperState plainTamperState.contbase.toNat (totalSize plainTamperState.tbl) ∧
    isSigned plainTamperState.tbl 0 = true ∧ isEncrypted plainTamperState.tbl 0 = false ∧
    blockLenOk plainTamperState.tbl 0 = true ∧ blockSig plainTamperState 0 = dSig plainTamperState.tbl 0 ∧
    plainTamperState.contbase.toNat + blockOffset plainTamperState.tbl 0 ≤ 248 ∧
    248 < plainTamperState.contbase.toNat + blockOffset plainTamperState.tbl 0 + dSize plainTamperState.tbl 0 ∧
    0x88 ≠ plainTamperState.mem.get 248 := by
  simp only [Ready, Fits]; decide +kernel

theorem witness_DesIgnoresKeyParityBits :
    (0x0101010101010101 : Block) &&& 0xFEFEFEFEFEFEFEFE = 0x0000000000000000 &&& 0xFEFEFEFEFEFEFEFE := by decide

theorem witness_CbcDecInvertsCbcEnc :
    (List.replicate 16 (7 : Byte)).length % 8 = 0 ∧
    bytesOf 24 (cipherState 8).ckey = bytesOf 8 (0x0123456789ABCDEF : Block) ++
      bytesOf 8 (0x23456789ABCDEF01 : Block) ++ bytesOf 8 (0x456789ABCDEF0123 : Block) ∧
    (∃ k, SelectsKey 1 (cipherState 8).ckey k) ∧ (∃ k, SelectsKey 2 (cipherState 8).ckey k) ∧
    (∃ k, SelectsKey 3 (cipherState 8).ckey k) :=
  ⟨by decide, by decide +kernel, ⟨_, .inl ⟨rfl, rfl⟩⟩, ⟨_, .inr (.inl ⟨rfl, rfl⟩)⟩, ⟨_, .inr (.inr ⟨rfl, rfl⟩)⟩⟩

theorem witness_CbcStreamCanBeSplit :
    (List.replicate 8 (7 : Byte)).length % 8 = 0 ∧ ([] : Bytes).length % 8 = 0 ∧ List.replicate 8 (7 : Byte) ≠ [] := by
  decide

theorem witness_FoldSignatureSeesOnlyTheXor : List.Perm [(1 : Block), 2] [2, 1] := List.Perm.swap ..

theorem witness_Mac3SeesEveryOneUnitChange : (1 : Block) ≠ 2 := by decide

theorem witness_TableEncThenDecRestores :
    Ready (vKbit ||| vTbl) true { contentState with a2 := 56 } ∧ tCount contentState.tbl ≤ 256 ∧
      { contentState with a2 := 56 }.a2.toNat = tableBytes contentState.tbl ∧ contentState.tbl.wf = true := by
  simp only [Ready]; decide +kernel

theorem witness_ContentEncAndDecRestore :
    Ready (vHdr ||| vKc ||| vTbl) true contentState ∧ contentState.mem.wf = true ∧ tCount contentState.tbl ≤ 256 ∧
    Fits contentState contentState.contbase.toNat (totalSize contentState.tbl) ∧
    (∀ j < 3, isEncrypted contentState.tbl j = true →
      dSize contentState.tbl j % 8 = 0 ∧ contentKn contentState.hdr ≠ 0) ∧
    tCount contentState.tbl = 3 ∧ contentKn 0 = 0 ∧ tCount (tableOf [(12, 2)]) = 1 ∧
    (∀ j < 1, isEncrypted (tableOf [(12, 2)]) j = true →
      dSize (tableOf [(12, 2)]) j % 8 = 0 ∧ contentKn 0 ≠ 0) := by simp only [Ready, Fits]; decide +kernel

theorem witness_SavedContainerLoadsBack :
    contentState.phase = .unloaded ∧ Ready (vHdr ||| vKbit ||| vKc ||| vTbl) true contentState ∧
    contentState.mem.wf = true ∧ contentState.tbl.wf = true ∧ tCount contentState.tbl = 3 ∧
    Fits contentState contentState.contbase.toNat (totalSize contentState.tbl) ∧
    hdrFlags contentState.hdr % 2 = 0 ∧ hdrBitCount contentState.hdr = 0 ∧
    hdrHeaderSize contentState.hdr = 88 + tableBytes contentState.tbl ∧
    (∀ j < 3, isEncrypted contentState.tbl j = true →
      dSize contentState.tbl j % 8 = 0 ∧ contentKn contentState.hdr ≠ 0) ∧
    (∀ j < 3, isSigned contentState.tbl j = true → blockLenOk contentState.tbl j = true) := by
  simp only [Ready, Fits]; decide +kernel

/-- For the four statements `StepKeeps…`: a state that meets every invariant, with a step from it. -/
theorem witness_StepKeepsInvariants :
    safeState contentState = true ∧ (∃ t, step { contentState with inbox := [.command 0x35] } = .next t) ∧
      memoriesOk contentState = true ∧ invalidIsZero contentState = true ∧ errorRecordOk contentState = true ∧
      keyStoreOk contentState = true ∧ errorRecordOk rejected = true ∧ contentState.kslock = true ∧
      isReset (.command 0x35) = false := by
  refine ⟨?_, ⟨_, rfl⟩, ?_, ?_, ?_, ?_, ?_, ?_, ?_⟩ <;> decide +kernel

theorem witness_ResetMeetsTheInvariants :
    Memory.wf [(0, 1), (255, 9)] = true ∧ Memory.below [(0, 1), (255, 9)] fresh.params.memSize.val = true := by decide

end Sys2Proof.Machine
end

section
/-! The decoder, said once: what each field of a word is (spec/30_encoding.md R91), which commands the opcode map selects
(R94), and when a word decodes to a command or is illegal (R95). -/

namespace Sys2Proof.Laws.Decoder

open Sys2Proof

/-! ## The three fields (R91) -/

theorem wordOp_eq_extract (w : Word) : wordOp w = (w.extractLsb' 0 8).toNat := by
  simp [wordOp]

theorem wordKn_eq_extract (w : Word) : wordKn w = (w.extractLsb' 8 3).toNat := by
  simp [wordKn, Nat.shiftRight_eq_div_pow]

theorem wordZ_eq_extract (w : Word) : wordZ w = (w.extractLsb' 11 21).toNat := by
  have hw := w.isLt
  simp only [wordZ, BitVec.extractLsb'_toNat, Nat.shiftRight_eq_div_pow]
  omega

/-- The mask of the rows that carry a key count keeps `Z` and `OP` and clears `KN`. -/
theorem toNat_and_maskOpZ (w : Word) : (w &&& 0xFFFFF8FF).toNat = 2048 * wordZ w + wordOp w := by
  have hhigh : (w.toNat &&& 0xFFFFF8FF) / 2 ^ 11 = w.toNat / 2 ^ 11 % 2 ^ 21 := by
    rw [Nat.and_div_two_pow, ← Nat.and_two_pow_sub_one_eq_mod]
  have hlow : (w.toNat &&& 0xFFFFF8FF) % 2 ^ 11 = w.toNat % 2 ^ 11 % 2 ^ 8 := by
    rw [Nat.and_mod_two_pow]
    exact Nat.and_two_pow_sub_one_eq_mod _ 8
  have hw := w.isLt
  have hand : (w &&& 0xFFFFF8FF).toNat = w.toNat &&& 0xFFFFF8FF := rfl
  simp only [wordZ, wordOp]
  omega

/-- The match of a row whose mask is `0xFFFFF8FF`. -/
theorem and_maskOpZ_eq_iff (w : Word) {op : Nat} (hop : op < 256) :
    w &&& 0xFFFFF8FF = BitVec.ofNat 32 op ↔ wordZ w = 0 ∧ wordOp w = op := by
  have hlt : wordOp w < 256 := Nat.mod_lt _ (by decide)
  rw [← BitVec.toNat_inj, toNat_and_maskOpZ, BitVec.toNat_ofNat]
  omega

/-- The match of a row whose mask is `0xFFFFFFFF`. -/
theorem and_maskAll_eq_iff (w : Word) {op : Nat} (hop : op < 256) :
    w &&& 0xFFFFFFFF = BitVec.ofNat 32 op ↔ wordZ w = 0 ∧ wordOp w = op ∧ wordKn w = 0 := by
  have hall : w &&& 0xFFFFFFFF = w := BitVec.and_allOnes
  rw [hall, ← BitVec.toNat_inj, BitVec.toNat_ofNat]
  simp only [wordZ, wordOp, wordKn]
  omega

/-! ## The opcode map (R94) -/

theorem opcode_lt (i : Instr) : opcode i < 256 := by
  cases i <;> simp [opcode]

/-- The opcodes of the map, in the order of R94. -/
def mapOpcodes : List Nat :=
  [0x00, 0x01, 0x02, 0x10, 0x11, 0x12, 0x13, 0x20, 0x21, 0x22, 0x30, 0x31, 0x32, 0x33, 0x34, 0x35, 0x36,
    0x40, 0x41, 0x42, 0x43, 0x44, 0x48, 0x50, 0x51, 0x52, 0x53]

theorem opcode_mem_mapOpcodes (i : Instr) : opcode i ∈ mapOpcodes := by
  cases i <;> simp [opcode, mapOpcodes]

/-- Only `CBC_ENC` and `CBC_DEC` carry a key count. -/
theorem keyCountField_eq_zero {i : Instr} (h : ¬ (opcode i = 0x10 ∨ opcode i = 0x11)) : keyCountField i = 0 := by
  cases i with
  | cbcEnc k => exact absurd (.inl rfl) h
  | cbcDec k => exact absurd (.inr rfl) h
  | _ => rfl

/-- The map selects `i` exactly at the opcode of `i`, and gives it the word's `KN` where the command takes one. -/
theorem opcodeInstr_eq_some_iff {op kn : Nat} {i : Instr} :
    opcodeInstr op kn = some i ↔
      op = opcode i ∧ keyCountField i = if op = 0x10 ∨ op = 0x11 then kn else 0 := by
  constructor
  · intro h
    unfold opcodeInstr at h
    split at h <;> cases h <;> exact ⟨rfl, rfl⟩
  · rintro ⟨rfl, hkn⟩
    cases i with
    | cbcEnc k => exact congrArg (some ∘ Instr.cbcEnc) hkn.symm
    | cbcDec k => exact congrArg (some ∘ Instr.cbcDec) hkn.symm
    | _ => rfl

theorem opcodeInstr_eq_none_iff {op kn : Nat} : opcodeInstr op kn = none ↔ op ∉ mapOpcodes := by
  constructor
  · have hmapped : ∀ op ∈ mapOpcodes, opcodeInstr op kn ≠ none := by simp [mapOpcodes, opcodeInstr]
    exact fun hnone hmem => hmapped op hmem hnone
  · intro hmem
    cases h : opcodeInstr op kn with
    | none => rfl
    | some i =>
      obtain ⟨rfl, -⟩ := opcodeInstr_eq_some_iff.mp h
      exact absurd (opcode_mem_mapOpcodes i) hmem

/-! ## The decoder (R95) -/

/-- The tests a word passes when it decodes to `i`. -/
theorem decode_eq_ok_iff_tests {w : Word} {i : Instr} :
    decode w = .ok i ↔ wordZ w = 0 ∧ opcodeInstr (wordOp w) (wordKn w) = some i ∧
      (wordKn w = 0 ∨ wordOp w = 0x10 ∨ wordOp w = 0x11) := by
  unfold decode
  split
  case isTrue hz => simp [hz]
  case isFalse hz =>
    split
    case h_1 hmap => simp [hmap]
    case h_2 j hmap =>
      rw [hmap, Option.some_inj]
      split
      case isTrue hkn => simp [hkn]
      case isFalse hkn =>
        rw [Except.ok.injEq]
        tauto

/-- A word decodes to `i` exactly when its `Z` is 0 and `i` has its `OP` and its `KN`. -/
theorem decode_eq_ok_iff {w : Word} {i : Instr} :
    decode w = .ok i ↔ wordZ w = 0 ∧ wordOp w = opcode i ∧ wordKn w = keyCountField i := by
  rw [decode_eq_ok_iff_tests, opcodeInstr_eq_some_iff]
  by_cases hcbc : wordOp w = 0x10 ∨ wordOp w = 0x11
  · rw [if_pos hcbc, eq_comm (a := keyCountField i)]
    tauto
  · rw [if_neg hcbc]
    constructor
    · rintro ⟨hz, ⟨hop, hcount⟩, htest⟩
      exact ⟨hz, hop, (htest.resolve_right hcbc).trans hcount.symm⟩
    · rintro ⟨hz, hop, hcount⟩
      have hzero := keyCountField_eq_zero (hop ▸ hcbc)
      exact ⟨hz, ⟨hop, hzero⟩, .inl (hcount.trans hzero)⟩

/-- The three ways a word is illegal. -/
theorem decode_eq_error_iff {w : Word} :
    (∃ e, decode w = .error e) ↔
      wordZ w ≠ 0 ∨ wordOp w ∉ mapOpcodes ∨ (wordKn w ≠ 0 ∧ wordOp w ≠ 0x10 ∧ wordOp w ≠ 0x11) := by
  rw [← opcodeInstr_eq_none_iff (kn := wordKn w)]
  unfold decode
  split
  case isTrue hz => simp [hz]
  case isFalse hz =>
    split
    case h_1 hmap => simp [hmap]
    case h_2 i hmap =>
      split
      case isTrue hkn => simp [hkn]
      case isFalse hkn => simp [hz, hmap, hkn]

/-- A row of the map that carries a key count: match under `0xFFFFF8FF`, `KN` in bits 10:8. -/
theorem decode_eq_ok_iff_maskOpZ (w : Word) (i : Instr) :
    decode w = .ok i ↔
      w &&& 0xFFFFF8FF = BitVec.ofNat 32 (opcode i) ∧ keyCountField i = (w.extractLsb' 8 3).toNat := by
  rw [decode_eq_ok_iff, and_maskOpZ_eq_iff w (opcode_lt i), ← wordKn_eq_extract, and_assoc,
    eq_comm (a := keyCountField i)]

/-- A row of the map that carries none: the whole word is its opcode. -/
theorem decode_eq_ok_iff_maskAll (w : Word) {i : Instr} (hkn : keyCountField i = 0) :
    decode w = .ok i ↔ w &&& 0xFFFFFFFF = BitVec.ofNat 32 (opcode i) := by
  rw [decode_eq_ok_iff, and_maskAll_eq_iff w (opcode_lt i), hkn]

end Sys2Proof.Laws.Decoder

open Sys2Proof Sys2Proof.Laws.Decoder

/-- Settles O1: each row is the decoder's characterisation by fields, read as a match under the row's mask. -/
theorem decodeMatchesOpcodeMap : Obligations.DecodeMatchesOpcodeMap := by
  unfold Obligations.DecodeMatchesOpcodeMap
  intro w
  have hrow (i : Instr) (hkn : keyCountField i = 0) := decode_eq_ok_iff_maskAll w hkn
  refine ⟨hrow .nop rfl, hrow .ksLock rfl, hrow .clear rfl,
    fun kn => decode_eq_ok_iff_maskOpZ w (.cbcEnc kn), fun kn => decode_eq_ok_iff_maskOpZ w (.cbcDec kn),
    hrow .xorBuf rfl, hrow .fold8 rfl, hrow .deriveKek rfl, hrow .unwrapKeys rfl, hrow .wrapKeys rfl,
    hrow .mac3 rfl, hrow .foldSig rfl, hrow .sigHeader rfl, hrow .sigTable rfl, hrow .sigRoot rfl,
    hrow .sigBlock rfl, hrow .signBlocks rfl, hrow .ldHeader rfl, hrow .ldKeys rfl, hrow .ldTable rfl,
    hrow .ldContent rfl, hrow .ldVerify rfl, hrow .svSeal rfl, hrow .tableDec rfl, hrow .tableEnc rfl,
    hrow .contentDec rfl, hrow .contentEnc rfl⟩

/-- Settles O2: the fields are the bit slices, the tests are the three ways to an illegal word, and what decodes has
the word's fields. -/
theorem decoderFollowsItsSteps : Obligations.DecoderFollowsItsSteps := by
  unfold Obligations.DecoderFollowsItsSteps
  intro w op kn z hop hkn hz
  rw [← wordOp_eq_extract] at hop
  rw [← wordKn_eq_extract] at hkn
  rw [← wordZ_eq_extract] at hz
  subst hop hkn hz
  refine ⟨⟨rfl, rfl, rfl⟩, decode_eq_error_iff, fun i hi => ?_⟩
  obtain ⟨-, hopcode, hcount⟩ := decode_eq_ok_iff.mp hi
  exact ⟨hopcode.symm, hcount.symm⟩

end

section
/-! The DES block function undone: `IP` and `FP` cancel (spec/40_des_block.md R111, R112), the rounds with the keys in
the opposite order take the swapped halves back (R118, R119), and so decryption and encryption invert each other
(R120). -/

namespace Sys2Proof.Laws.Des

open Sys2Proof Sys2Proof.Machine

/-! ## The outer permutations (R111, R112) -/

/-- Two permutation tables cancel when every entry of the outer one, `u`, points at the place of `t` that holds the
number of that entry. -/
theorem permute_permute_cancel {n : Nat} {t u : List Nat} (ht : t.length = n) (hu : u.length = n)
    (hrange : ∀ i < n, 1 ≤ u.getD i 0 ∧ u.getD i 0 ≤ n)
    (hinv : ∀ i < n, t.getD (u.getD i 0 - 1) 0 = i + 1) (x : BitVec n) :
    permute n u (permute n t x) = x := by
  apply eq_of_desBit_eq
  intro j h1 h2
  obtain ⟨hlow, hhigh⟩ := hrange (j - 1) (by omega)
  rw [desBit_permute _ hu h1 h2, desBit_permute _ ht hlow hhigh, hinv (j - 1) (by omega), Nat.sub_add_cancel h1]

theorem permute_tableFP_tableIP (x : Block) : permute 64 tableFP (permute 64 tableIP x) = x :=
  permute_permute_cancel (n := 64) rfl rfl (by decide) (by decide) x

theorem permute_tableIP_tableFP (x : Block) : permute 64 tableIP (permute 64 tableFP x) = x :=
  permute_permute_cancel (n := 64) rfl rfl (by decide) (by decide) x

/-! ## The rounds (R118, R119) -/

theorem rounds_append (ks ks' : List (BitVec 48)) (l r : BitVec 32) :
    rounds (ks ++ ks') l r = rounds ks' (rounds ks l r).1 (rounds ks l r).2 := by
  induction ks generalizing l r with
  | nil => rfl
  | cons k ks ih => exact ih r (l ^^^ roundF r k)

/-- The Feistel argument: whatever the round function is, the rounds on the swapped halves with the keys reversed give
the first halves back, swapped. -/
theorem rounds_reverse (ks : List (BitVec 48)) (l r : BitVec 32) :
    rounds ks.reverse (rounds ks l r).2 (rounds ks l r).1 = (r, l) := by
  induction ks generalizing l r with
  | nil => rfl
  | cons k ks ih =>
    have hrest : rounds ks.reverse (rounds (k :: ks) l r).2 (rounds (k :: ks) l r).1 = (l ^^^ roundF r k, r) :=
      ih r (l ^^^ roundF r k)
    rw [List.reverse_cons, rounds_append, hrest]
    simp only [rounds, xor_cancel_right]

/-! ## The block function (R120) -/

theorem desWith_reverse_desWith (ks : List (BitVec 48)) (b : Block) : desWith ks.reverse (desWith ks b) = b := by
  simp only [desWith, permute_tableIP_tableFP, BitVec.extractLsb'_append_eq_left,
    BitVec.extractLsb'_append_eq_right, rounds_reverse]
  have hhalves (x : BitVec (32 + 32)) : x.extractLsb' 32 32 ++ x.extractLsb' 0 32 = x :=
    BitVec.extractLsb'_append_extractLsb'
  rw [hhalves, permute_tableFP_tableIP]

theorem desDec_desEnc (k b : Block) : desDec k (desEnc k b) = b :=
  desWith_reverse_desWith (roundKeys k) b

theorem desEnc_desDec (k b : Block) : desEnc k (desDec k b) = b := by
  have h := desWith_reverse_desWith (roundKeys k).reverse b
  rwa [List.reverse_reverse] at h

/-- A worked example needs its encryption alone to be evaluated. -/
theorem desExample_of_desEnc_eq {k b c : Block} (h : desEnc k b = c) : DesExample k b c :=
  ⟨h, h ▸ desDec_desEnc k b⟩

end Sys2Proof.Laws.Des

open Sys2Proof Sys2Proof.Laws.Des

/-- Settles O44: the Feistel rounds undo themselves under the reversed key list, between permutations that cancel. -/
theorem desDecInvertsDesEnc : Obligations.DesDecInvertsDesEnc := by
  unfold Obligations.DesDecInvertsDesEnc
  exact fun k b => ⟨desDec_desEnc k b, desEnc_desDec k b⟩

/-- Settles O46: each cipher block is evaluated from its key and plain block; the plain block then follows by
inversion. -/
theorem desWorkedExamples : Obligations.DesWorkedExamples := by
  unfold Obligations.DesWorkedExamples
  refine ⟨?_, ?_, ?_, ?_, ?_, ?_, ?_⟩ <;>
    exact desExample_of_desEnc_eq (by decide +kernel)

end

section
/-! The cipher functions (spec/41_cipher_engine.md section 1): the sub-keys a key string spells (R130), the block
operation and its inverse (R131, R132), CBC one unit at a time (R133, R134), and that CBC decryption and encryption
invert each other. -/

namespace Sys2Proof.Laws.Cipher

open Sys2Proof Sys2Proof.Machine Sys2Proof.Laws.Des

/-! ## The sub-keys of a key string (R130) -/

/-- The bytes of two strings joined are the bytes of the one, then the bytes of the other. -/
theorem bytesOf_append {v w m n : Nat} (hw : w = 8 * n) (x : BitVec v) (y : BitVec w) :
    bytesOf (m + n) (x ++ y) = bytesOf m x ++ bytesOf n y := by
  simp only [bytesOf, List.range_add, List.map_append, List.map_map]
  congr 1 <;> refine List.map_congr_left fun i hi => ?_ <;> rw [List.mem_range] at hi
  · rw [BitVec.extractLsb'_append_eq_of_le (by omega)]
    congr 1
    omega
  · rw [Function.comp_apply, BitVec.extractLsb'_append_eq_of_add_le (by omega)]
    congr 1
    omega

theorem bytesOf_injective {w n : Nat} (hw : w = 8 * n) : Function.Injective (bytesOf n : BitVec w → Bytes) :=
  Function.LeftInverse.injective (ofBytes_bytesOf hw)

/-- A key string that three sub-keys spell is those sub-keys joined, sub-key 1 the most significant. -/
theorem eq_append_of_bytesOf_eq {keys : BitVec 192} {k1 k2 k3 : Block}
    (h : bytesOf 24 keys = bytesOf 8 k1 ++ bytesOf 8 k2 ++ bytesOf 8 k3) : keys = k1 ++ k2 ++ k3 := by
  apply bytesOf_injective (n := 24) rfl
  rw [h, bytesOf_append (m := 16) (n := 8) rfl, bytesOf_append (m := 8) (n := 8) rfl]

/-- The key that each count selects from three sub-keys joined. -/
theorem selectsKey_append_iff {kn : Nat} {k1 k2 k3 : Block} {k : CipherKey} :
    SelectsKey kn (k1 ++ k2 ++ k3) k ↔
      (kn = 1 ∧ k = .one k1) ∨ (kn = 2 ∧ k = .two k1 k2) ∨ (kn = 3 ∧ k = .three k1 k2 k3) := by
  have h1 : (k1 ++ k2 ++ k3).extractLsb' 128 64 = k1 := by
    rw [BitVec.extractLsb'_append_eq_of_le (by decide)]
    exact BitVec.extractLsb'_append_eq_left
  have h2 : (k1 ++ k2 ++ k3).extractLsb' 64 64 = k2 := by
    rw [BitVec.extractLsb'_append_eq_of_le (by decide)]
    exact BitVec.extractLsb'_append_eq_right
  have h3 : (k1 ++ k2 ++ k3).extractLsb' 0 64 = k3 := BitVec.extractLsb'_append_eq_right
  rw [SelectsKey, h1, h2, h3]

/-! ## The block operation (R131, R132) -/

theorem blockDec_blockEnc (k : CipherKey) (b : Block) : blockDec k (blockEnc k b) = b := by
  cases k <;> simp only [blockEnc, blockDec, desDec_desEnc, desEnc_desDec]

theorem blockEnc_blockDec (k : CipherKey) (b : Block) : blockEnc k (blockDec k b) = b := by
  cases k <;> simp only [blockEnc, blockDec, desDec_desEnc, desEnc_desDec]

/-! ## CBC (R133, R134) -/

@[simp] theorem cbcEnc_nil (k : CipherKey) (iv : Block) : cbcEnc k iv [] = [] := rfl

@[simp] theorem cbcDec_nil (k : CipherKey) (iv : Block) : cbcDec k iv [] = [] := rfl

/-- CBC encryption of a first unit, which becomes the chaining value of the rest once it is encrypted. -/
theorem cbcEnc_unit_append (k : CipherKey) (iv b : Block) (rest : Bytes) :
    cbcEnc k iv (bytesOf 8 b ++ rest) =
      bytesOf 8 (blockEnc k (b ^^^ iv)) ++ cbcEnc k (blockEnc k (b ^^^ iv)) rest := by
  simp only [cbcEnc, bytesOf_eight_append, cbcEncBlocks, bytesOfBlocks]

/-- CBC decryption of a first unit, which is the chaining value of the rest as it stands. -/
theorem cbcDec_unit_append (k : CipherKey) (iv c : Block) (rest : Bytes) :
    cbcDec k iv (bytesOf 8 c ++ rest) = bytesOf 8 (blockDec k c ^^^ iv) ++ cbcDec k c rest := by
  simp only [cbcDec, bytesOf_eight_append, cbcDecBlocks, bytesOfBlocks]

theorem cbcDecBlocks_cbcEncBlocks (k : CipherKey) (iv : Block) (bs : List Block) :
    cbcDecBlocks k iv (cbcEncBlocks k iv bs) = bs := by
  induction bs generalizing iv with
  | nil => rfl
  | cons b bs ih => rw [cbcEncBlocks, cbcDecBlocks, blockDec_blockEnc, xor_cancel_right, ih]

theorem cbcEncBlocks_cbcDecBlocks (k : CipherKey) (iv : Block) (cs : List Block) :
    cbcEncBlocks k iv (cbcDecBlocks k iv cs) = cs := by
  induction cs generalizing iv with
  | nil => rfl
  | cons c cs ih => rw [cbcDecBlocks, cbcEncBlocks, xor_cancel_right, blockEnc_blockDec, ih]

/-- A byte string of whole units is the bytes of its units. -/
theorem bytesOfBlocks_blocksOf_of_mod {l : Bytes} (h : l.length % 8 = 0) : bytesOfBlocks (blocksOf l) = l :=
  bytesOfBlocks_blocksOf (l.length / 8) l (by omega)

theorem cbcDec_cbcEnc (k : CipherKey) (iv : Block) {data : Bytes} (h : data.length % 8 = 0) :
    cbcDec k iv (cbcEnc k iv data) = data := by
  rw [cbcDec, cbcEnc, blocksOf_bytesOfBlocks, cbcDecBlocks_cbcEncBlocks, bytesOfBlocks_blocksOf_of_mod h]

theorem cbcEnc_cbcDec (k : CipherKey) (iv : Block) {data : Bytes} (h : data.length % 8 = 0) :
    cbcEnc k iv (cbcDec k iv data) = data := by
  rw [cbcDec, cbcEnc, blocksOf_bytesOfBlocks, cbcEncBlocks_cbcDecBlocks, bytesOfBlocks_blocksOf_of_mod h]

/-- On one unit with a zero IV the mode disappears (R142). -/
theorem cbcEnc_unit (k : CipherKey) (b : Block) : cbcEnc k 0 (bytesOf 8 b) = bytesOf 8 (blockEnc k b) := by
  simpa using cbcEnc_unit_append k 0 b []

/-- On one unit with a zero IV the mode disappears (R142). -/
theorem cbcDec_unit (k : CipherKey) (c : Block) : cbcDec k 0 (bytesOf 8 c) = bytesOf 8 (blockDec k c) := by
  simpa using cbcDec_unit_append k 0 c []

end Sys2Proof.Laws.Cipher

open Sys2Proof Sys2Proof.Machine Sys2Proof.Laws.Cipher

/-- Settles O47: the passes on the sub-keys, which the key string spells; the CBC recursion unit by unit; and inversion
by induction over the units, from that of the block operation. -/
theorem cbcDecInvertsCbcEnc : Obligations.CbcDecInvertsCbcEnc := by
  unfold Obligations.CbcDecInvertsCbcEnc
  refine ⟨fun keys k1 k2 k3 b k hkeys => ?_, fun k iv => ⟨rfl, rfl, fun b rest => ?_⟩,
    fun k iv _ h => ⟨cbcDec_cbcEnc k iv h, cbcEnc_cbcDec k iv h⟩, fun k b => ⟨cbcEnc_unit k b, cbcDec_unit k b⟩⟩
  · obtain rfl := eq_append_of_bytesOf_eq hkeys
    simp only [selectsKey_append_iff, Nat.reduceEqDiff, true_and, false_and, or_false, false_or]
    refine ⟨?_, ?_, ?_⟩ <;> (rintro rfl; exact ⟨rfl, rfl⟩)
  · exact ⟨cbcEnc_unit_append k iv b rest, cbcDec_unit_append k iv b rest⟩

end

section
/-! The commands of the cipher engine (spec/41_cipher_engine.md section 2): one rule for each check of `CBC_ENC`,
`CBC_DEC`, `XOR_BUF` and `FOLD8`, in the order of R259, one for each store, and that folding twice undoes itself. -/

namespace Sys2Proof.Laws.CipherEngine

open Sys2Proof Sys2Proof.Machine

/-! ## What the four commands call, and their words -/

theorem exec_cbcEnc (kn : Nat) (s : State) : exec (.cbcEnc kn) s = cipherBuffer cbcEnc kn s := rfl

theorem exec_cbcDec (kn : Nat) (s : State) : exec (.cbcDec kn) s = cipherBuffer cbcDec kn s := rfl

theorem exec_xorBuf (s : State) : exec .xorBuf s = execXorBuf s := rfl

theorem exec_fold8 (s : State) : exec .fold8 s = execFold8 s := rfl

/-- The word built from the opcode and the key count of a command decodes to the command. -/
theorem decode_opcode_keyCount {i : Instr} (hkn : keyCountField i < 8) :
    decode (BitVec.ofNat 32 (opcode i + 256 * keyCountField i)) = .ok i := by
  obtain ⟨hop, hcount, hz⟩ := Laws.EncodingFields.fields _ _ (Laws.Decoder.opcode_lt i) hkn
  exact Laws.Decoder.decode_eq_ok_iff.mpr ⟨hz, hop, hcount⟩

/-! ## Ranges and stores (R62, R63) -/

theorem inRange_eq_true_of_fits {s : State} {a n : Nat} (h : Fits s a n) :
    inRange a n s.params.memSize.val = true := inRange_eq_true.mpr h

theorem inRange_eq_false_of_not_fits {s : State} {a n : Nat} (h : ¬ Fits s a n) :
    inRange a n s.params.memSize.val = false := inRange_eq_false.mpr (Nat.lt_of_not_le h)

theorem stores_write {m : Memory} {a n : Nat} {v : Bytes} (hm : m.wf = true) (hv : v.length = n) :
    Stores m (m.write a v) a n v := by
  subst hv
  exact fun _ => Memory.get_write hm

/-! ## `CBC_ENC` and `CBC_DEC` (R137, R138) -/

section
variable {f : CipherKey → Block → Bytes → Bytes} {kn : Nat} {s : State} {k : CipherKey}

theorem cipherBuffer_of_missing (hp : s.phase ≠ .rejected) (hm : missing (vCkey ||| vCiv) false s ≠ 0) :
    cipherBuffer f kn s = .next (takeError .operandInvalid (missing (vCkey ||| vCiv) false s) s) := by
  rw [cipherBuffer, if_neg hp, if_pos hm, raise]

theorem cipherBuffer_of_no_key (hr : Ready (vCkey ||| vCiv) false s) (hk : selectKey kn s.ckey = none) :
    cipherBuffer f kn s = .next (takeError .invalidKeyCount (BitVec.ofNat 32 kn) s) := by
  simp [cipherBuffer, raise, hr.1, hr.missing, hk]

theorem cipherBuffer_of_length (hr : Ready (vCkey ||| vCiv) false s) (hk : selectKey kn s.ckey = some k)
    (hn : s.a2.toNat % 8 ≠ 0) : cipherBuffer f kn s = .next (takeError .lengthError s.a2 s) := by
  simp [cipherBuffer, raise, hr.1, hr.missing, hk, hn]

theorem cipherBuffer_of_source (hr : Ready (vCkey ||| vCiv) false s) (hk : selectKey kn s.ckey = some k)
    (hn : s.a2.toNat % 8 = 0) (h0 : ¬ Fits s s.a0.toNat s.a2.toNat) :
    cipherBuffer f kn s = .next (takeError .accessFault s.a0 s) := by
  simp [cipherBuffer, raise, hr.1, hr.missing, hk, hn, inRange_eq_false_of_not_fits h0]

theorem cipherBuffer_of_destination (hr : Ready (vCkey ||| vCiv) false s) (hk : selectKey kn s.ckey = some k)
    (hn : s.a2.toNat % 8 = 0) (h0 : Fits s s.a0.toNat s.a2.toNat) (h1 : ¬ Fits s s.a1.toNat s.a2.toNat) :
    cipherBuffer f kn s = .next (takeError .accessFault s.a1 s) := by
  simp [cipherBuffer, raise, hr.1, hr.missing, hk, hn, inRange_eq_true_of_fits h0, inRange_eq_false_of_not_fits h1]

theorem cipherBuffer_of_fits (hr : Ready (vCkey ||| vCiv) false s) (hk : selectKey kn s.ckey = some k)
    (hn : s.a2.toNat % 8 = 0) (h0 : Fits s s.a0.toNat s.a2.toNat) (h1 : Fits s s.a1.toNat s.a2.toNat) :
    cipherBuffer f kn s =
      .next { s with mem := s.mem.write s.a1.toNat (f k s.civ (s.mem.read s.a0.toNat s.a2.toNat)) } := by
  simp [cipherBuffer, hr.1, hr.missing, hk, hn, inRange_eq_true_of_fits h0, inRange_eq_true_of_fits h1]

/-- The rule of a command that is `cipherBuffer` of a length-preserving cipher function. -/
theorem cipherCommandRule_of_exec {op : Nat} {mk : Nat → Instr} (hop : ∀ kn, opcode (mk kn) = op)
    (hcount : ∀ kn, keyCountField (mk kn) = kn) (hexec : ∀ kn s, exec (mk kn) s = cipherBuffer f kn s)
    (hlen : ∀ k iv l, l.length % 8 = 0 → (f k iv l).length = l.length) : CipherCommandRule op mk f := by
  refine ⟨fun kn hkn => ?_, fun kn s hp => ?_⟩
  · have hword := decode_opcode_keyCount (i := mk kn) (by rwa [hcount])
    rwa [hop, hcount] at hword
  simp only [Raises, hexec]
  refine ⟨cipherBuffer_of_missing hp, fun hr =>
    ⟨fun hkn => cipherBuffer_of_no_key hr (selectKey_eq_none.mpr hkn), fun hkn => ?_⟩⟩
  obtain ⟨k, hk⟩ : ∃ k, selectKey kn s.ckey = some k :=
    Option.ne_none_iff_exists'.mp fun hnone => by have := selectKey_eq_none.mp hnone; omega
  refine ⟨cipherBuffer_of_length hr hk, cipherBuffer_of_source hr hk, cipherBuffer_of_destination hr hk,
    fun hn h0 h1 hm k' hk' => ?_⟩
  refine ⟨_, cipherBuffer_of_fits hr (selectKey_eq_some.mpr hk') hn h0 h1, stores_write hm ?_⟩
  rw [hlen _ _ _ (by rwa [Memory.read_length]), Memory.read_length]

end

/-! ## `XOR_BUF` (R140) -/

section
variable {s : State}

theorem execXorBuf_of_first_source (hp : s.phase ≠ .rejected) (h0 : ¬ Fits s s.a0.toNat s.a2.toNat) :
    execXorBuf s = .next (takeError .accessFault s.a0 s) := by
  simp [execXorBuf, raise, hp, inRange_eq_false_of_not_fits h0]

theorem execXorBuf_of_second_source (hp : s.phase ≠ .rejected) (h0 : Fits s s.a0.toNat s.a2.toNat)
    (h1 : ¬ Fits s s.a1.toNat s.a2.toNat) : execXorBuf s = .next (takeError .accessFault s.a1 s) := by
  simp [execXorBuf, raise, hp, inRange_eq_true_of_fits h0, inRange_eq_false_of_not_fits h1]

theorem execXorBuf_of_destination (hp : s.phase ≠ .rejected) (h0 : Fits s s.a0.toNat s.a2.toNat)
    (h1 : Fits s s.a1.toNat s.a2.toNat) (h3 : ¬ Fits s s.a3.toNat s.a2.toNat) :
    execXorBuf s = .next (takeError .accessFault s.a3 s) := by
  simp [execXorBuf, raise, hp, inRange_eq_true_of_fits h0, inRange_eq_true_of_fits h1,
    inRange_eq_false_of_not_fits h3]

theorem execXorBuf_of_fits (hp : s.phase ≠ .rejected) (h0 : Fits s s.a0.toNat s.a2.toNat)
    (h1 : Fits s s.a1.toNat s.a2.toNat) (h3 : Fits s s.a3.toNat s.a2.toNat) :
    execXorBuf s = .next { s with
      mem := s.mem.write s.a3.toNat
        (xorBytes (s.mem.read s.a0.toNat s.a2.toNat) (s.mem.read s.a1.toNat s.a2.toNat)) } := by
  simp [execXorBuf, hp, inRange_eq_true_of_fits h0, inRange_eq_true_of_fits h1, inRange_eq_true_of_fits h3]

end

/-- Byte `i` of the XOR of two ranges is the XOR of the two bytes that stand there (R11). -/
theorem xorBytes_read_getD {m : Memory} {a b n i : Nat} (hi : i < n) :
    (xorBytes (m.read a n) (m.read b n)).getD i 0 = m.get (a + i) ^^^ m.get (b + i) := by
  rw [xorBytes_getD (by simp) i (by simpa using hi), Memory.read_getD hi, Memory.read_getD hi]

/-! ## `FOLD8` (R136, R141) -/

/-- The digest enters a fold as one more XOR. -/
theorem fold_eq_xor (d : Block) (m : Bytes) : fold d m = d ^^^ fold 0 m := by
  simpa [fold] using List.foldl_assoc (op := fun acc u : Block => acc ^^^ u) (l := blocksOf m) (a₁ := d) (a₂ := 0)

/-- Folding the same message twice gives the digest back. -/
theorem fold_fold (d : Block) (m : Bytes) : fold (fold d m) m = d := by
  rw [fold_eq_xor, fold_eq_xor d, xor_cancel_right]

section
variable {s : State}

theorem execFold8_of_missing (hp : s.phase ≠ .rejected) (hm : missing vDig false s ≠ 0) :
    execFold8 s = .next (takeError .operandInvalid (missing vDig false s) s) := by
  rw [execFold8, if_neg hp, if_pos hm, raise]

theorem execFold8_of_length (hr : Ready vDig false s) (hn : s.a2.toNat % 8 ≠ 0) :
    execFold8 s = .next (takeError .lengthError s.a2 s) := by
  simp [execFold8, raise, hr.1, hr.missing, hn]

theorem execFold8_of_source (hr : Ready vDig false s) (hn : s.a2.toNat % 8 = 0)
    (h0 : ¬ Fits s s.a0.toNat s.a2.toNat) : execFold8 s = .next (takeError .accessFault s.a0 s) := by
  simp [execFold8, raise, hr.1, hr.missing, hn, inRange_eq_false_of_not_fits h0]

/-- A write of a register that is valid already leaves `VALID` as it is. -/
theorem putDig_of_ready (hr : Ready vDig false s) (v : Block) : s.putDig v = { s with dig := v } := by
  obtain ⟨-, hvalid, -⟩ := hr
  have habsorb : s.valid ||| vDig = s.valid := by
    rw [← hvalid]
    grind
  rw [State.putDig, habsorb]

theorem execFold8_of_fits (hr : Ready vDig false s) (hn : s.a2.toNat % 8 = 0) (h0 : Fits s s.a0.toNat s.a2.toNat) :
    execFold8 s = .next { s with dig := fold s.dig (s.mem.read s.a0.toNat s.a2.toNat) } := by
  simp [execFold8, hr.1, hr.missing, hn, inRange_eq_true_of_fits h0, putDig_of_ready hr]

end

end Sys2Proof.Laws.CipherEngine

open Sys2Proof Sys2Proof.Machine Sys2Proof.Laws.Cipher Sys2Proof.Laws.CipherEngine

/-- Settles O20: the shared rule of the two cipher commands; the example is evaluated. -/
theorem cbcEncFollowsItsRule : Obligations.CbcEncFollowsItsRule := by
  unfold Obligations.CbcEncFollowsItsRule
  exact ⟨cipherCommandRule_of_exec (fun _ => rfl) (fun _ => rfl) exec_cbcEnc fun _ _ _ => cbcEnc_length,
    by decide +kernel⟩

/-- Settles O21: the shared rule of the two cipher commands; the example is that of `CBC_ENC` inverted. -/
theorem cbcDecFollowsItsRule : Obligations.CbcDecFollowsItsRule := by
  unfold Obligations.CbcDecFollowsItsRule
  obtain ⟨-, hexample⟩ := cbcEncFollowsItsRule
  refine ⟨cipherCommandRule_of_exec (fun _ => rfl) (fun _ => rfl) exec_cbcDec fun _ _ _ => cbcDec_length, ?_⟩
  rw [← hexample]
  exact cbcDec_cbcEnc _ _ (by rw [bytesOf_length])

/-- Settles O22: one rule for each range that does not fit; the stored string is the XOR of the two ranges as read
before the store. -/
theorem xorBufFollowsItsRule : Obligations.XorBufFollowsItsRule := by
  unfold Obligations.XorBufFollowsItsRule
  refine ⟨decode_opcode_keyCount (i := .xorBuf) (by decide), by decide, fun s hp => ?_⟩
  simp only [Raises, exec_xorBuf]
  refine ⟨execXorBuf_of_first_source hp, execXorBuf_of_second_source hp, execXorBuf_of_destination hp,
    fun h0 h1 h3 hm => ⟨_, execXorBuf_of_fits hp h0 h1 h3, fun x => ?_⟩⟩
  rw [Memory.get_write hm, xorBytes_length (by simp), Memory.read_length]
  split
  case isTrue hx => exact xorBytes_read_getD (by omega)
  case isFalse => rfl

/-- Settles O23: one rule for each check; the fold leaves all that the command reads but `DIG`, so that the same command
again succeeds and gives `DIG` back. -/
theorem fold8FollowsItsRule : Obligations.Fold8FollowsItsRule := by
  unfold Obligations.Fold8FollowsItsRule
  refine ⟨decode_opcode_keyCount (i := .fold8) (by decide), by decide, fun s hp => ?_⟩
  simp only [Raises, exec_fold8]
  refine ⟨execFold8_of_missing hp, execFold8_of_length, execFold8_of_source,
    fun hr hn h0 => ⟨_, execFold8_of_fits hr hn h0, rfl, ?_⟩⟩
  have hagain := execFold8_of_fits (s := { s with dig := fold s.dig (s.mem.read s.a0.toNat s.a2.toNat) }) hr hn h0
  rwa [fold_fold] at hagain

end

section
/-! The key pipeline (spec/42_key_pipeline.md): a 16-byte key taken half by half is what the rules spell on byte strings
(R151 to R153), wrapping and unwrapping undo each other (R157), and one rule for each check and each store of
`DERIVE_KEK`, `UNWRAP_KEYS` and `WRAP_KEYS` (R154 to R156). -/

namespace Sys2Proof.Laws.KeyPipeline

open Sys2Proof Sys2Proof.Machine Sys2Proof.Laws.Cipher

/-! ## The halves of a 16-byte key -/

theorem ofBytes_append_units (a b : Block) : ofBytes 128 (bytesOf 8 a ++ bytesOf 8 b) = a ++ b := by
  rw [← bytesOf_append (m := 8) (n := 8) rfl a b]
  exact ofBytes_bytesOf (n := 16) rfl (a ++ b)

theorem append_halves (k : BitVec 128) : k.extractLsb' 64 64 ++ k.extractLsb' 0 64 = k :=
  BitVec.extractLsb'_append_extractLsb'

theorem bytesOf_eq_append_halves (k : BitVec 128) :
    bytesOf 16 k = bytesOf 8 (k.extractLsb' 64 64) ++ bytesOf 8 (k.extractLsb' 0 64) := by
  rw [← bytesOf_append (m := 8) (n := 8) rfl, append_halves]

theorem slice_first_half (k : BitVec 128) : slice (bytesOf 16 k) 0 8 = bytesOf 8 (k.extractLsb' 64 64) := by
  rw [bytesOf_eq_append_halves, slice, List.drop_zero, List.take_left' (bytesOf_length _)]

theorem slice_second_half (k : BitVec 128) : slice (bytesOf 16 k) 8 8 = bytesOf 8 (k.extractLsb' 0 64) := by
  rw [bytesOf_eq_append_halves, slice, List.drop_left' (bytesOf_length _), List.take_of_length_le (by simp)]

/-! ## `DeriveKek`, `Wrap16`, `Unwrap16` (R151 to R153, R157) -/

theorem deriveKek_eq_cbcEnc (ks : KeyStore) (h : BitVec 256) :
    deriveKek ks h = ofBytes 128
      (cbcEnc (twoKey ks.kbitMaster) 0 (bytesOf 8 (headerDigest h ^^^ ks.kbitIv)) ++
        cbcEnc (twoKey ks.kcMaster) 0 (bytesOf 8 (headerDigest h ^^^ ks.kcIv))) := by
  rw [cbcEnc_unit, cbcEnc_unit, ofBytes_append_units, deriveKek]

theorem wrap16_eq_cbcEnc (kek k : BitVec 128) :
    wrap16 kek k = ofBytes 128
      (cbcEnc (twoKey kek) 0 (slice (bytesOf 16 k) 0 8) ++ cbcEnc (twoKey kek) 0 (slice (bytesOf 16 k) 8 8)) := by
  rw [slice_first_half, slice_second_half, cbcEnc_unit, cbcEnc_unit, ofBytes_append_units, wrap16]

theorem unwrap16_eq_cbcDec (kek k : BitVec 128) :
    unwrap16 kek k = ofBytes 128
      (cbcDec (twoKey kek) 0 (slice (bytesOf 16 k) 0 8) ++ cbcDec (twoKey kek) 0 (slice (bytesOf 16 k) 8 8)) := by
  rw [slice_first_half, slice_second_half, cbcDec_unit, cbcDec_unit, ofBytes_append_units, unwrap16]

theorem unwrap16_wrap16 (kek k : BitVec 128) : unwrap16 kek (wrap16 kek k) = k := by
  rw [unwrap16, wrap16, BitVec.extractLsb'_append_eq_left, BitVec.extractLsb'_append_eq_right, blockDec_blockEnc,
    blockDec_blockEnc, append_halves]

theorem wrap16_unwrap16 (kek k : BitVec 128) : wrap16 kek (unwrap16 kek k) = k := by
  rw [wrap16, unwrap16, BitVec.extractLsb'_append_eq_left, BitVec.extractLsb'_append_eq_right, blockEnc_blockDec,
    blockEnc_blockDec, append_halves]

/-! ## `DERIVE_KEK` (R154) -/

theorem exec_deriveKek (s : State) : exec .deriveKek s = execDeriveKek s := rfl

section
variable {s : State}

theorem execDeriveKek_of_missing (hp : s.phase ≠ .rejected) (hm : missing vHdr true s ≠ 0) :
    execDeriveKek s = .next (takeError .operandInvalid (missing vHdr true s) s) := by
  rw [execDeriveKek, if_neg hp, if_pos hm, raise]

theorem execDeriveKek_of_ready (hr : Ready vHdr true s) :
    execDeriveKek s = .next (s.putKek (deriveKek s.ks s.hdr)) := by
  rw [execDeriveKek, if_neg hr.1, if_neg (not_not.mpr hr.missing)]

end

/-! ## `UNWRAP_KEYS` and `WRAP_KEYS` (R155, R156) -/

/-- What `UNWRAP_KEYS` and `WRAP_KEYS` share: the checks, and one function of `KEK` and a key applied to both working
keys. -/
def mapWorkingKeys (g : BitVec 128 → BitVec 128 → BitVec 128) (s : State) : Result :=
  if s.phase = .rejected then .next s
  else if missing (vKbit ||| vKc ||| vKek) false s ≠ 0 then
    raise .operandInvalid (missing (vKbit ||| vKc ||| vKek) false s) s
  else .next ((s.putKbit (g s.kek s.kbit)).putKc (g s.kek s.kc))

theorem exec_unwrapKeys (s : State) : exec .unwrapKeys s = mapWorkingKeys unwrap16 s := rfl

theorem exec_wrapKeys (s : State) : exec .wrapKeys s = mapWorkingKeys wrap16 s := rfl

/-- A write of a register that `need` has found valid leaves `VALID` as it is (R27, R257). -/
theorem valid_or_of_ready {names bit : BitVec 12} {ks : Bool} {s : State} (hr : Ready names ks s)
    (hbit : names &&& bit = bit) : s.valid ||| bit = s.valid := by
  obtain ⟨-, hvalid, -⟩ := hr
  rw [← hbit, ← hvalid]
  grind

section
variable {g h : BitVec 128 → BitVec 128 → BitVec 128} {s : State}

theorem mapWorkingKeys_of_missing (hp : s.phase ≠ .rejected)
    (hm : missing (vKbit ||| vKc ||| vKek) false s ≠ 0) :
    mapWorkingKeys g s = .next (takeError .operandInvalid (missing (vKbit ||| vKc ||| vKek) false s) s) := by
  rw [mapWorkingKeys, if_neg hp, if_pos hm, raise]

theorem mapWorkingKeys_of_ready (hr : Ready (vKbit ||| vKc ||| vKek) false s) :
    mapWorkingKeys g s = .next { s with kbit := g s.kek s.kbit, kc := g s.kek s.kc } := by
  have hkbit : s.valid ||| vKbit = s.valid := valid_or_of_ready hr (by decide)
  have hkc : s.valid ||| vKc = s.valid := valid_or_of_ready hr (by decide)
  rw [mapWorkingKeys, if_neg hr.1, if_neg (not_not.mpr hr.missing)]
  simp only [State.putKbit, State.putKc, hkbit, hkc]

/-- Two of these commands in a row restore the state when the second function undoes the first under every `KEK`: the
first changes neither `KEK` nor what the second checks. -/
theorem execAll_mapWorkingKeys_inverse {i j : Instr} (hi : ∀ s, exec i s = mapWorkingKeys g s)
    (hj : ∀ s, exec j s = mapWorkingKeys h s) (hinv : ∀ kek k, h kek (g kek k) = k)
    (hr : Ready (vKbit ||| vKc ||| vKek) false s) : execAll [i, j] s = .next s := by
  have hready : Ready (vKbit ||| vKc ||| vKek) false { s with kbit := g s.kek s.kbit, kc := g s.kek s.kc } := hr
  simp only [execAll, hi, hj, mapWorkingKeys_of_ready hr, mapWorkingKeys_of_ready hready, hinv]

end

end Sys2Proof.Laws.KeyPipeline

open Sys2Proof Sys2Proof.Machine Sys2Proof.Laws.CipherEngine Sys2Proof.Laws.KeyPipeline

/-- Settles O24: the `need` line, then the two one-unit encryptions joined; the examples are evaluated. -/
theorem deriveKekFollowsItsRule : Obligations.DeriveKekFollowsItsRule := by
  unfold Obligations.DeriveKekFollowsItsRule
  refine ⟨decode_opcode_keyCount (i := .deriveKek) (by decide), by decide, by decide +kernel, ?_⟩
  rintro s hd hp rfl
  rw [Raises, exec_deriveKek]
  refine ⟨execDeriveKek_of_missing hp, fun hr => ?_⟩
  rw [execDeriveKek_of_ready hr, deriveKek_eq_cbcEnc]
  rfl

/-- Settles O25: the `need` line, then each half as a one-unit decryption; the examples are evaluated. -/
theorem unwrapKeysFollowsItsRule : Obligations.UnwrapKeysFollowsItsRule := by
  unfold Obligations.UnwrapKeysFollowsItsRule
  refine ⟨decode_opcode_keyCount (i := .unwrapKeys) (by decide), by decide +kernel, by decide +kernel, ?_⟩
  rintro s k hp rfl
  rw [Raises, exec_unwrapKeys]
  refine ⟨mapWorkingKeys_of_missing hp, fun hr => ?_⟩
  rw [mapWorkingKeys_of_ready hr, unwrap16_eq_cbcDec, unwrap16_eq_cbcDec]
  rfl

/-- Settles O26: the `need` line, then each half as a one-unit encryption; the examples are evaluated. -/
theorem wrapKeysFollowsItsRule : Obligations.WrapKeysFollowsItsRule := by
  unfold Obligations.WrapKeysFollowsItsRule
  refine ⟨decode_opcode_keyCount (i := .wrapKeys) (by decide), by decide +kernel, by decide +kernel, ?_⟩
  rintro s k hp rfl
  rw [Raises, exec_wrapKeys]
  refine ⟨mapWorkingKeys_of_missing hp, fun hr => ?_⟩
  rw [mapWorkingKeys_of_ready hr, wrap16_eq_cbcEnc, wrap16_eq_cbcEnc]
  rfl

/-- Settles O49: each half is undone by the inverse of the block operation, and the first command leaves `KEK` and the
valid bits for the second. -/
theorem wrapAndUnwrapAreInverse : Obligations.WrapAndUnwrapAreInverse := by
  unfold Obligations.WrapAndUnwrapAreInverse
  exact ⟨fun kek k => ⟨unwrap16_wrap16 kek k, wrap16_unwrap16 kek k⟩, fun s hr =>
    ⟨execAll_mapWorkingKeys_inverse exec_wrapKeys exec_unwrapKeys unwrap16_wrap16 hr,
      execAll_mapWorkingKeys_inverse exec_unwrapKeys exec_wrapKeys wrap16_unwrap16 hr⟩⟩

end

section
/-! The signature engine (spec/43_signature_engine.md): the signature functions spelled on byte strings as the rules
spell them (R165 to R168), the `need` line and the count check that its commands share (R257, R261), one rule for each
further check and each store (R170 to R176). -/

namespace Sys2Proof.Laws.SignatureEngine

open Sys2Proof Sys2Proof.Machine

/-! ## The last block of a ciphertext -/

theorem bytesOfBlocks_append (bs cs : List Block) :
    bytesOfBlocks (bs ++ cs) = bytesOfBlocks bs ++ bytesOfBlocks cs := by
  induction bs with
  | nil => rfl
  | cons b bs ih => simp only [List.cons_append, bytesOfBlocks, ih, List.append_assoc]

theorem bytesOfBlocks_eq_flatMap (bs : List Block) : bytesOfBlocks bs = bs.flatMap (bytesOf 8) := by
  induction bs with
  | nil => rfl
  | cons b bs ih => rw [bytesOfBlocks, List.flatMap_cons, ih]

theorem lastEight_append_unit (c : Bytes) (b : Block) : lastEight (c ++ bytesOf 8 b) = b := by
  have hstart : (c ++ bytesOf 8 b).length - 8 = c.length := by simp
  rw [lastEight, hstart, List.drop_left, ofBytes_bytesOf (n := 8) rfl]

theorem lastEight_bytesOfBlocks {bs : List Block} (h : bs ≠ []) : lastEight (bytesOfBlocks bs) = lastBlock bs := by
  obtain ⟨init, b, rfl⟩ := (List.eq_nil_or_concat' bs).resolve_left h
  rw [bytesOfBlocks_append, lastBlock, List.getLastD_concat]
  exact lastEight_append_unit _ b

/-- The last block of a CBC ciphertext is its last 8 bytes, when the message has a unit. -/
theorem lastBlock_cbcEncBlocks {bs : List Block} (k : CipherKey) (iv : Block) (h : bs ≠ []) :
    lastBlock (cbcEncBlocks k iv bs) = lastEight (bytesOfBlocks (cbcEncBlocks k iv bs)) := by
  refine (lastEight_bytesOfBlocks ?_).symm
  rw [← List.length_pos_iff, cbcEncBlocks_length, List.length_pos_iff]
  exact h

/-! ## The four signatures (R165 to R168) -/

/-- R165 as it is spelled, on the bytes of the ciphertext. -/
theorem mac3_eq_lastEight (ks : KeyStore) {m : Bytes} (h : 8 ≤ m.length) :
    mac3 ks m = desEnc ks.sigMaster (desDec ks.sigHash (lastEight (cbcEnc (.one ks.sigMaster) 0 m))) := by
  have hunits : blocksOf m ≠ [] := by simp [blocksOf_of_le h]
  rw [mac3, lastBlock_cbcEncBlocks _ _ hunits, cbcEnc]

/-- R166 in its three DES passes. -/
theorem foldSig_eq_passes (ks : KeyStore) (m : Bytes) :
    foldSig ks m = desEnc ks.sigMaster (desDec ks.sigHash (desEnc ks.sigMaster (fold 0 m))) := rfl

/-- A key's seed is its first half with the second one XORed in where it differs. -/
theorem keySeed_eq_xor (k : BitVec 128) :
    keySeed k = k.extractLsb' 64 64 ^^^ if k.extractLsb' 64 64 ≠ k.extractLsb' 0 64 then k.extractLsb' 0 64 else 0 := by
  unfold keySeed
  split
  case isTrue => rfl
  case isFalse => exact BitVec.xor_zero.symm

/-- R167 in its three DES passes, the halves of the working keys entering the digest one after the other. -/
theorem tableSig_eq_passes (ks : KeyStore) (kbit kc : BitVec 128) (tb : Bytes) {b1 b2 c1 c2 : Block}
    (hb1 : b1 = kbit.extractLsb' 64 64) (hb2 : b2 = kbit.extractLsb' 0 64)
    (hc1 : c1 = kc.extractLsb' 64 64) (hc2 : c2 = kc.extractLsb' 0 64) :
    tableSig ks kbit kc tb = desEnc ks.sigMaster (desDec ks.sigHash (desEnc ks.sigMaster
      (fold (((b1 ^^^ if b1 ≠ b2 then b2 else 0) ^^^ c1) ^^^ if c1 ≠ c2 then c2 else 0) tb))) := by
  subst hb1 hb2 hc1 hc2
  rw [BitVec.xor_assoc, ← keySeed_eq_xor, ← keySeed_eq_xor]
  rfl

/-- The signature field of a descriptor is its 8 bytes (R39). -/
theorem bytesOf_dSig (t : Memory) (i : Nat) : bytesOf 8 (dSig t i) = t.read (16 + 16 * i) 8 := by
  have hbytes := bytesOf_ofBytes (w := 64) (t.read (16 + 16 * i) 8) (by rw [Memory.read_length])
  rwa [Memory.read_length] at hbytes

/-- The stored signatures of the SIGNED blocks, as bytes of `TBL` in table order. -/
theorem bytesOfBlocks_signedSigs (t : Memory) :
    bytesOfBlocks (signedSigs t) =
      ((List.range (tCount t)).filter fun i => isSigned t i).flatMap fun i => t.read (16 + 16 * i) 8 := by
  rw [bytesOfBlocks_eq_flatMap, signedSigs, List.flatMap_map]
  exact congrArg (List.flatMap · _) (funext (bytesOf_dSig t))

/-- R168 as it is spelled, on the bytes of the message and of its ciphertext. -/
theorem rootSig_eq_lastEight (ks : KeyStore) (hsig tsig : Block) (t : Memory) :
    rootSig ks hsig tsig t = blockDec (twoKey ks.rootHash) (lastEight (cbcEnc (.one ks.rootMaster) 0
      (bytesOf 8 hsig ++ bytesOf 8 tsig ++
        (((List.range (tCount t)).filter fun i => isSigned t i).flatMap fun i => t.read (16 + 16 * i) 8)))) := by
  have hmessage : bytesOf 8 hsig ++ bytesOf 8 tsig ++
      (((List.range (tCount t)).filter fun i => isSigned t i).flatMap fun i => t.read (16 + 16 * i) 8) =
      bytesOfBlocks (hsig :: tsig :: signedSigs t) := by
    rw [bytesOfBlocks, bytesOfBlocks, bytesOfBlocks_signedSigs, List.append_assoc]
  rw [hmessage, cbcEnc, blocksOf_bytesOfBlocks, rootSig, lastBlock_cbcEncBlocks _ _ (List.cons_ne_nil _ _)]

/-! ## The blocks of the table (R169, R177) -/

theorem blockSig_of_encrypted {s : State} {i : Nat} (h : isEncrypted s.tbl i = true) :
    blockSig s i = foldSig s.ks (blockData s i) := if_pos h

theorem blockSig_of_not_encrypted {s : State} {i : Nat} (h : isEncrypted s.tbl i = false) :
    blockSig s i = mac3 s.ks (blockData s i) := if_neg (Bool.eq_false_iff.mp h)

theorem blockLenOk_eq_true {t : Memory} {i : Nat} :
    blockLenOk t i = true ↔ dSize t i % 8 = 0 ∧ (isEncrypted t i = true ∨ 8 ≤ dSize t i) := by
  simp [blockLenOk]

theorem blockLenOk_eq_false {t : Memory} {i : Nat} :
    blockLenOk t i = false ↔ dSize t i % 8 ≠ 0 ∨ (isEncrypted t i = false ∧ dSize t i < 8) := by
  simp [blockLenOk, imp_iff_not_or]

/-- When a block is none that `SIGN_BLOCKS` stops at. -/
theorem signable_iff {t : Memory} {i : Nat} :
    (isSigned t i && !blockLenOk t i) = false ↔ (isSigned t i = true → blockLenOk t i = true) := by
  cases isSigned t i <;> simp

theorem firstUnsignable_eq_some {t : Memory} {i : Nat} (hi : i < tCount t) (hs : isSigned t i = true)
    (hbad : blockLenOk t i = false) (hfirst : ∀ j < i, isSigned t j = true → blockLenOk t j = true) :
    firstUnsignable t = some i := by
  rw [firstUnsignable, blockIndices, List.find?_range_eq_some]
  refine ⟨by simp [hs, hbad], List.mem_range.mpr hi, fun j hj => ?_⟩
  rw [signable_iff.mpr (hfirst j hj), Bool.not_false]

theorem firstUnsignable_eq_none {t : Memory} (hok : ∀ i < tCount t, isSigned t i = true → blockLenOk t i = true) :
    firstUnsignable t = none := by
  rw [firstUnsignable, blockIndices, List.find?_range_eq_none]
  intro i hi
  rw [signable_iff.mpr (hok i hi), Bool.not_false]

/-- A read whose bytes are known one by one is the string of those bytes. -/
theorem read_eq_of_get {m : Memory} {a : Nat} {v : Bytes} (h : ∀ k < v.length, m.get (a + k) = v.getD k 0) :
    m.read a v.length = v := by
  refine List.ext_getElem Memory.read_length fun k _ hk => ?_
  have hget := h k hk
  rw [← Memory.read_getD hk, List.getD_eq_getElem _ _ (by simpa), List.getD_eq_getElem _ _ hk] at hget
  exact hget

/-- The signature that `SIGN_BLOCKS` leaves in the descriptor of a SIGNED block (R176). -/
theorem dSig_signTable {s : State} {i : Nat} (ht : s.tbl.wf = true) (hi : i < tCount s.tbl)
    (hs : isSigned s.tbl i = true) : dSig (signTable s) i = blockSig s i := by
  obtain ⟨-, hstored, -⟩ := signTable_get ht
  have hread := read_eq_of_get (v := bytesOf 8 (blockSig s i)) fun b hb => hstored i hi hs b (by simpa using hb)
  rw [bytesOf_length] at hread
  rw [dSig, hread, ofBytes_bytesOf (n := 8) rfl]

/-! ## What the commands share: the `need` line and the count check (R257, R259, R261) -/

/-- A command that does nothing in `Rejected`, has the line `need(names, KS)`, and goes on with `body`. -/
def afterNeed (names : BitVec 12) (body : State → Result) (s : State) : Result :=
  if s.phase = .rejected then .next s
  else if missing names true s ≠ 0 then raise .operandInvalid (missing names true s) s
  else body s

/-- The count check of the commands on the table, before `body`. -/
def afterCount (body : State → Result) (s : State) : Result :=
  if Config.maxBlocks < tCount s.tbl then raise .invalidBitTableSize (BitVec.ofNat 32 (tCount s.tbl)) s else body s

section
variable {names : BitVec 12} {body : State → Result} {s : State}

theorem afterNeed_of_missing (hp : s.phase ≠ .rejected) (hm : missing names true s ≠ 0) :
    afterNeed names body s = .next (takeError .operandInvalid (missing names true s) s) := by
  rw [afterNeed, if_neg hp, if_pos hm, raise]

theorem afterNeed_of_ready (hr : Ready names true s) : afterNeed names body s = body s := by
  rw [afterNeed, if_neg hr.1, if_neg (not_not.mpr hr.missing)]

theorem afterNeed_afterCount_of_lt (hr : Ready names true s) (hc : 256 < tCount s.tbl) :
    afterNeed names (afterCount body) s =
      .next (takeError .invalidBitTableSize (BitVec.ofNat 32 (tCount s.tbl)) s) := by
  rw [afterNeed_of_ready hr, afterCount, if_pos (show Config.maxBlocks < _ from hc), raise]

theorem afterNeed_afterCount_of_le (hr : Ready names true s) (hc : tCount s.tbl ≤ 256) :
    afterNeed names (afterCount body) s = body s := by
  rw [afterNeed_of_ready hr, afterCount, if_neg (show ¬ Config.maxBlocks < _ from Nat.not_lt.mpr hc)]

end

/-- `NAME <- v` of `SIG` on the whole state, the valid bit written out (R27, R29). -/
theorem putSig_eq (v : Block) (s : State) : s.putSig v = { s with sig := v, valid := s.valid ||| 0x080 } := rfl

theorem contentInRange_of_fits {s : State} (h : Fits s s.contbase.toNat (totalSize s.tbl)) :
    contentInRange s = true := inRange_eq_true.mpr h

theorem contentInRange_of_not_fits {s : State} (h : ¬ Fits s s.contbase.toNat (totalSize s.tbl)) :
    contentInRange s = false := inRange_eq_false.mpr (Nat.lt_of_not_le h)

/-! ## `MAC3` and `FOLDSIG` (R170, R171) -/

/-- What `MAC3` and `FOLDSIG` share after their `need` line: the length their scheme takes, the range of the buffer, and
the signature of its bytes. -/
def signBuffer (lenOk : Nat → Prop) [DecidablePred lenOk] (f : KeyStore → Bytes → Block) (s : State) : Result :=
  if ¬ lenOk s.a2.toNat then raise .lengthError s.a2 s
  else if inRange s.a0.toNat s.a2.toNat s.params.memSize.val = false then raise .accessFault s.a0 s
  else .next (s.putSig (f s.ks (s.mem.read s.a0.toNat s.a2.toNat)))

theorem exec_mac3 (s : State) :
    exec .mac3 s = afterNeed 0 (signBuffer (fun n => n % 8 = 0 ∧ 8 ≤ n) mac3) s := rfl

theorem exec_foldSig (s : State) : exec .foldSig s = afterNeed 0 (signBuffer (fun n => n % 8 = 0) foldSig) s := rfl

section
variable {lenOk : Nat → Prop} [DecidablePred lenOk] {f : KeyStore → Bytes → Block} {names : BitVec 12} {s : State}

theorem signBuffer_of_length (hr : Ready names true s) (hn : ¬ lenOk s.a2.toNat) :
    afterNeed names (signBuffer lenOk f) s = .next (takeError .lengthError s.a2 s) := by
  rw [afterNeed_of_ready hr, signBuffer, if_pos hn, raise]

theorem signBuffer_of_source (hr : Ready names true s) (hn : lenOk s.a2.toNat)
    (h0 : ¬ Fits s s.a0.toNat s.a2.toNat) :
    afterNeed names (signBuffer lenOk f) s = .next (takeError .accessFault s.a0 s) := by
  rw [afterNeed_of_ready hr, signBuffer, if_neg (not_not.mpr hn),
    if_pos (CipherEngine.inRange_eq_false_of_not_fits h0), raise]

theorem signBuffer_of_fits (hr : Ready names true s) (hn : lenOk s.a2.toNat) (h0 : Fits s s.a0.toNat s.a2.toNat) :
    afterNeed names (signBuffer lenOk f) s =
      .next (s.putSig (f s.ks (s.mem.read s.a0.toNat s.a2.toNat))) := by
  rw [afterNeed_of_ready hr, signBuffer, if_neg (not_not.mpr hn),
    if_neg (by simp [CipherEngine.inRange_eq_true_of_fits h0])]

end

/-! ## `SIG_HEADER`, `SIG_TABLE`, `SIG_ROOT` (R172 to R174) -/

theorem exec_sigHeader (s : State) :
    exec .sigHeader s = afterNeed vHdr (fun s => .next (s.putSig (mac3 s.ks (bytesOf 32 s.hdr)))) s := rfl

theorem exec_sigTable (s : State) :
    exec .sigTable s = afterNeed (vKbit ||| vKc ||| vTbl) (afterCount fun s =>
      .next (s.putSig (tableSig s.ks s.kbit s.kc (s.tbl.read 0 (tableBytes s.tbl))))) s := rfl

theorem exec_sigRoot (s : State) :
    exec .sigRoot s = afterNeed (vHsig ||| vTsig ||| vTbl) (afterCount fun s =>
      .next (s.putSig (rootSig s.ks s.hsig s.tsig s.tbl))) s := rfl

/-! ## `SIG_BLOCK` (R175) -/

/-- `SIG_BLOCK` after its count check. -/
def signOneBlock (s : State) : Result :=
  if tCount s.tbl ≤ s.a0.toNat then raise .accessFault s.a0 s
  else if contentInRange s = false then raise .accessFault s.contbase s
  else if blockLenOk s.tbl s.a0.toNat = false then raise .lengthError s.a0 s
  else .next (s.putSig (blockSig s s.a0.toNat))

theorem exec_sigBlock (s : State) : exec .sigBlock s = afterNeed vTbl (afterCount signOneBlock) s := rfl

section
variable {s : State}

theorem signOneBlock_of_index (hi : tCount s.tbl ≤ s.a0.toNat) :
    signOneBlock s = .next (takeError .accessFault s.a0 s) := by
  rw [signOneBlock, if_pos hi, raise]

theorem signOneBlock_of_content (hi : s.a0.toNat < tCount s.tbl)
    (hf : ¬ Fits s s.contbase.toNat (totalSize s.tbl)) :
    signOneBlock s = .next (takeError .accessFault s.contbase s) := by
  rw [signOneBlock, if_neg (Nat.not_le.mpr hi), if_pos (contentInRange_of_not_fits hf), raise]

theorem signOneBlock_of_length (hi : s.a0.toNat < tCount s.tbl) (hf : Fits s s.contbase.toNat (totalSize s.tbl))
    (hl : blockLenOk s.tbl s.a0.toNat = false) : signOneBlock s = .next (takeError .lengthError s.a0 s) := by
  rw [signOneBlock, if_neg (Nat.not_le.mpr hi), if_neg (by simp [contentInRange_of_fits hf]), if_pos hl, raise]

theorem signOneBlock_of_ok (hi : s.a0.toNat < tCount s.tbl) (hf : Fits s s.contbase.toNat (totalSize s.tbl))
    (hl : blockLenOk s.tbl s.a0.toNat = true) : signOneBlock s = .next (s.putSig (blockSig s s.a0.toNat)) := by
  rw [signOneBlock, if_neg (Nat.not_le.mpr hi), if_neg (by simp [contentInRange_of_fits hf]), if_neg (by simp [hl])]

end

/-! ## `SIGN_BLOCKS` (R176) -/

/-- `SIGN_BLOCKS` after its count check. -/
def signEveryBlock (s : State) : Result :=
  if contentInRange s = false then raise .accessFault s.contbase s
  else match firstUnsignable s.tbl with
    | some i => raise .lengthError (BitVec.ofNat 32 i) s
    | none => .next { s with tbl := signTable s }

theorem exec_signBlocks (s : State) : exec .signBlocks s = afterNeed vTbl (afterCount signEveryBlock) s := rfl

section
variable {s : State}

theorem signEveryBlock_of_content (hf : ¬ Fits s s.contbase.toNat (totalSize s.tbl)) :
    signEveryBlock s = .next (takeError .accessFault s.contbase s) := by
  rw [signEveryBlock, if_pos (contentInRange_of_not_fits hf), raise]

theorem signEveryBlock_of_length {i : Nat} (hf : Fits s s.contbase.toNat (totalSize s.tbl))
    (hl : firstUnsignable s.tbl = some i) :
    signEveryBlock s = .next (takeError .lengthError (BitVec.ofNat 32 i) s) := by
  rw [signEveryBlock, if_neg (by simp [contentInRange_of_fits hf]), hl]
  rfl

theorem signEveryBlock_of_ok (hf : Fits s s.contbase.toNat (totalSize s.tbl)) (hl : firstUnsignable s.tbl = none) :
    signEveryBlock s = .next { s with tbl := signTable s } := by
  rw [signEveryBlock, if_neg (by simp [contentInRange_of_fits hf]), hl]

end

end Sys2Proof.Laws.SignatureEngine

open Sys2Proof Sys2Proof.Machine Sys2Proof.Laws.CipherEngine Sys2Proof.Laws.SignatureEngine

/-- Settles O27: one rule for each check of the buffer; the last ciphertext block is the last 8 bytes. -/
theorem mac3FollowsItsRule : Obligations.Mac3FollowsItsRule := by
  unfold Obligations.Mac3FollowsItsRule
  refine ⟨decode_opcode_keyCount (i := .mac3) (by decide), by decide +kernel, ?_⟩
  rintro s c hp rfl
  simp only [Raises, exec_mac3]
  refine ⟨afterNeed_of_missing hp, fun hr hn => signBuffer_of_length hr hn,
    fun hr h8 hn h0 => signBuffer_of_source hr ⟨h8, hn⟩ h0, fun hr h8 hn h0 => ?_⟩
  rw [signBuffer_of_fits hr ⟨h8, hn⟩ h0, putSig_eq, mac3_eq_lastEight _ (by rwa [Memory.read_length])]

/-- Settles O28: one rule for each check of the buffer; a length of 0 passes them all. -/
theorem foldSigFollowsItsRule : Obligations.FoldSigFollowsItsRule := by
  unfold Obligations.FoldSigFollowsItsRule
  refine ⟨decode_opcode_keyCount (i := .foldSig) (by decide), by decide, by decide +kernel, ?_⟩
  rintro s d hp rfl
  simp only [Raises, exec_foldSig]
  refine ⟨afterNeed_of_missing hp, fun hr hn => signBuffer_of_length hr hn,
    fun hr h8 h0 => signBuffer_of_source hr h8 h0, fun hr h8 h0 => ?_⟩
  rw [signBuffer_of_fits hr h8 h0, putSig_eq, foldSig_eq_passes]

/-- Settles O29: the `need` line, then `Mac3` of a message that has 32 bytes. -/
theorem sigHeaderFollowsItsRule : Obligations.SigHeaderFollowsItsRule := by
  unfold Obligations.SigHeaderFollowsItsRule
  refine ⟨decode_opcode_keyCount (i := .sigHeader) (by decide), by decide +kernel, ?_⟩
  rintro s c hp rfl
  simp only [Raises, exec_sigHeader]
  refine ⟨afterNeed_of_missing hp, fun hr => ?_⟩
  rw [afterNeed_of_ready hr, putSig_eq, mac3_eq_lastEight _ (by simp)]

/-- Settles O30: the `need` line, the count check, then the three passes over the fold from the keys' seed. -/
theorem sigTableFollowsItsRule : Obligations.SigTableFollowsItsRule := by
  unfold Obligations.SigTableFollowsItsRule
  refine ⟨decode_opcode_keyCount (i := .sigTable) (by decide), by decide +kernel, ?_⟩
  rintro s b1 b2 c1 c2 d hp hb1 hb2 hc1 hc2 rfl
  simp only [Raises, exec_sigTable]
  refine ⟨afterNeed_of_missing hp, afterNeed_afterCount_of_lt, fun hr hc => ?_⟩
  rw [afterNeed_afterCount_of_le hr hc, putSig_eq, tableSig_eq_passes _ _ _ _ hb1 hb2 hc1 hc2]
  rfl

/-- Settles O31: the `need` line, the count check, then the chained message as bytes. -/
theorem sigRootFollowsItsRule : Obligations.SigRootFollowsItsRule := by
  unfold Obligations.SigRootFollowsItsRule
  refine ⟨decode_opcode_keyCount (i := .sigRoot) (by decide), by decide +kernel, ?_⟩
  rintro s m t h1 h2 hp rfl rfl rfl rfl
  simp only [Raises, exec_sigRoot]
  refine ⟨afterNeed_of_missing hp, afterNeed_afterCount_of_lt, fun hr hc => ?_⟩
  rw [afterNeed_afterCount_of_le hr hc, putSig_eq, rootSig_eq_lastEight]
  rfl

/-- Settles O32: one rule for each check, in order; the flag ENCRYPTED selects the scheme. The examples are those of
`FOLDSIG` and `MAC3`. -/
theorem sigBlockFollowsItsRule : Obligations.SigBlockFollowsItsRule := by
  unfold Obligations.SigBlockFollowsItsRule
  obtain ⟨-, hmac, -⟩ := mac3FollowsItsRule
  obtain ⟨-, -, hfold, -⟩ := foldSigFollowsItsRule
  refine ⟨decode_opcode_keyCount (i := .sigBlock) (by decide), hfold, hmac, ?_⟩
  rintro s i data hp rfl rfl
  simp only [Raises, exec_sigBlock]
  refine ⟨afterNeed_of_missing hp, fun hr => ⟨afterNeed_afterCount_of_lt hr, fun hc => ?_⟩⟩
  rw [afterNeed_afterCount_of_le hr hc]
  refine ⟨signOneBlock_of_index, fun hi => ⟨signOneBlock_of_content hi, fun hf =>
    ⟨fun hl => signOneBlock_of_length hi hf (blockLenOk_eq_false.mpr hl), fun h8 he => ?_, fun h8 hn he => ?_⟩⟩⟩
  · rw [signOneBlock_of_ok hi hf (blockLenOk_eq_true.mpr ⟨h8, .inl he⟩), putSig_eq, blockSig_of_encrypted he, blockData]
  · rw [signOneBlock_of_ok hi hf (blockLenOk_eq_true.mpr ⟨h8, .inr hn⟩), putSig_eq, blockSig_of_not_encrypted he,
      blockData]

/-- Settles O33: one rule for each check, in order; the stores into the descriptors do not meet, so each field holds its
block's signature. The examples are those of `FOLDSIG` and `MAC3`. -/
theorem signBlocksFollowsItsRule : Obligations.SignBlocksFollowsItsRule := by
  unfold Obligations.SignBlocksFollowsItsRule
  obtain ⟨-, hmac, -⟩ := mac3FollowsItsRule
  obtain ⟨-, -, hfold, -⟩ := foldSigFollowsItsRule
  refine ⟨decode_opcode_keyCount (i := .signBlocks) (by decide), hfold, hmac, fun s hp => ?_⟩
  simp only [Raises, exec_signBlocks]
  refine ⟨afterNeed_of_missing hp, fun hr => ⟨afterNeed_afterCount_of_lt hr, fun hc => ?_, fun hc hf => ?_⟩⟩ <;>
    rw [afterNeed_afterCount_of_le hr hc]
  · exact signEveryBlock_of_content
  · refine ⟨fun i hi hs hbad hfirst => signEveryBlock_of_length hf (firstUnsignable_eq_some hi hs hbad hfirst),
      fun hok ht => ⟨_, signEveryBlock_of_ok hf (firstUnsignable_eq_none hok), fun i hi hs => ?_, ?_⟩⟩
    · exact dSig_signTable ht hi hs
    · obtain ⟨-, -, hframe⟩ := signTable_get ht
      exact hframe

end

section
/-! The load and save sequencer (spec/44_load_save_sequencer.md): the checks that the five gate commands share (R190),
one rule for each further check and each store of the gates (R191 to R195) and of `SV_SEAL` (R198), and `ContentCipher`
(spec/45_table_content_pipeline.md R218) check by check, for every command that calls it. -/

namespace Sys2Proof.Laws.LoadSave

open Sys2Proof Sys2Proof.Machine Sys2Proof.Laws.CipherEngine Sys2Proof.Laws.KeyPipeline Sys2Proof.Laws.SignatureEngine

/-! ## What the gates share (R190, R257, R259) -/

/-- A gate: it does nothing in `Rejected`, raises outside its phase `p`, has the line `need(names, KS)`, and goes on
with `body`. -/
def gateAt (p : Phase) (names : BitVec 12) (body : State → Result) (s : State) : Result :=
  if s.phase = .rejected then .next s
  else if s.phase ≠ p then raise .sequenceError s.phase.info s
  else if missing names true s ≠ 0 then raise .operandInvalid (missing names true s) s
  else body s

section
variable {p : Phase} {names : BitVec 12} {body : State → Result} {s : State}

theorem gateAt_of_other_phase (hp : s.phase ≠ p) (hr : s.phase ≠ .rejected) :
    gateAt p names body s = .next (takeError .sequenceError (BitVec.ofNat 32 s.phase.code) s) := by
  rw [gateAt, if_neg hr, if_pos hp, raise, Phase.info]

/-- In its own phase a gate is a command with a `need` line. -/
theorem gateAt_of_phase (hp : s.phase = p) : gateAt p names body s = afterNeed names body s := by
  rw [gateAt, afterNeed, if_neg (not_not.mpr hp)]

theorem gateAt_of_missing (hp : s.phase = p) (hr : p ≠ .rejected) (hm : missing names true s ≠ 0) :
    gateAt p names body s = .next (takeError .operandInvalid (missing names true s) s) := by
  rw [gateAt_of_phase hp, afterNeed_of_missing (hp ▸ hr) hm]

theorem gateAt_of_ready (hp : s.phase = p) (hr : Ready names true s) : gateAt p names body s = body s := by
  rw [gateAt_of_phase hp, afterNeed_of_ready hr]

end

/-! ## `LD_HEADER` (R191) -/

theorem hdrFlags_lt (h : BitVec 256) : hdrFlags h < 65536 := by
  simpa [hdrFlags, slice] using leNat_lt (slice (bytesOf 32 h) 24 2)

theorem hdrBitCount_lt (h : BitVec 256) : hdrBitCount h < 65536 := by
  simpa [hdrBitCount, slice] using leNat_lt (slice (bytesOf 32 h) 26 2)

/-- The test of bits 19 to 16 never fires on a 16-bit field (spec/90_conflicts.md C1). -/
theorem variantSupported_eq_true {h : BitVec 256} :
    variantSupported h = true ↔ hdrFlags h % 2 = 0 ∧ hdrBitCount h = 0 := by
  have hhigh : hdrFlags h / 65536 % 16 = 0 := by
    rw [Nat.div_eq_of_lt (hdrFlags_lt h)]
  simp [variantSupported, hhigh]

/-- The two 16-bit fields of the detail do not overlap. -/
theorem variantInfo_eq (h : BitVec 256) :
    variantInfo h = BitVec.ofNat 32 (hdrFlags h + 65536 * hdrBitCount h) := by
  have hflags := hdrFlags_lt h
  have hcount := hdrBitCount_lt h
  have hor := Nat.two_pow_add_eq_or_of_lt (i := 16) hflags (hdrBitCount h)
  apply BitVec.eq_of_toNat_eq
  rw [variantInfo, BitVec.toNat_or, BitVec.toNat_shiftLeft, BitVec.toNat_ofNat, BitVec.toNat_ofNat, BitVec.toNat_ofNat,
    Nat.mod_eq_of_lt (by omega : hdrFlags h < 2 ^ 32), Nat.mod_eq_of_lt (by omega : hdrBitCount h < 2 ^ 32),
    Nat.shiftLeft_eq, Nat.mod_eq_of_lt (by omega : hdrBitCount h * 2 ^ 16 < 2 ^ 32), Nat.mul_comm, Nat.lor_comm, ← hor]
  omega

/-- `LD_HEADER` after its `need` line. -/
def checkHeader (s : State) : Result :=
  if variantSupported s.hdr = false then raise .unsupportedVariant (variantInfo s.hdr) s
  else if mac3 s.ks (bytesOf 32 s.hdr) ≠ s.hsig then raise .invalidHeaderSignature 0 s
  else .next { s with phase := .headerRead }

theorem exec_ldHeader (s : State) : exec .ldHeader s = gateAt .unloaded (vHdr ||| vHsig) checkHeader s := rfl

section
variable {s : State}

theorem checkHeader_of_variant (hv : hdrFlags s.hdr % 2 = 1 ∨ hdrBitCount s.hdr ≠ 0) :
    checkHeader s = .next (takeError .unsupportedVariant
      (BitVec.ofNat 32 (hdrFlags s.hdr + 65536 * hdrBitCount s.hdr)) s) := by
  have hunsupported : variantSupported s.hdr = false := by
    rw [← Bool.not_eq_true, variantSupported_eq_true]
    omega
  rw [checkHeader, if_pos hunsupported, raise, variantInfo_eq]

theorem checkHeader_of_signature (hf : hdrFlags s.hdr % 2 = 0) (hc : hdrBitCount s.hdr = 0)
    (hsig : mac3 s.ks (bytesOf 32 s.hdr) ≠ s.hsig) :
    checkHeader s = .next (takeError .invalidHeaderSignature 0 s) := by
  rw [checkHeader, if_neg (by simp [variantSupported_eq_true.mpr ⟨hf, hc⟩]), if_pos hsig, raise]

theorem checkHeader_of_ok (hf : hdrFlags s.hdr % 2 = 0) (hc : hdrBitCount s.hdr = 0)
    (hsig : mac3 s.ks (bytesOf 32 s.hdr) = s.hsig) : checkHeader s = .next { s with phase := .headerRead } := by
  rw [checkHeader, if_neg (by simp [variantSupported_eq_true.mpr ⟨hf, hc⟩]), if_neg (not_not.mpr hsig)]

end

/-! ## `LD_KEYS` (R192) -/

/-- `LD_KEYS` after its `need` line. -/
def unwrapWithHeaderKek (s : State) : Result :=
  .next {
    ((s.putKek (deriveKek s.ks s.hdr)).putKbit (unwrap16 (deriveKek s.ks s.hdr) s.kbit)).putKc
      (unwrap16 (deriveKek s.ks s.hdr) s.kc) with
    phase := .keysUnwrapped }

theorem exec_ldKeys (s : State) :
    exec .ldKeys s = gateAt .headerRead (vHdr ||| vKbit ||| vKc) unwrapWithHeaderKek s := rfl

/-- `KBIT` and `KC` are valid already, so only the bit of `KEK` is new. -/
theorem unwrapWithHeaderKek_of_ready {s : State} (hr : Ready (vHdr ||| vKbit ||| vKc) true s) :
    unwrapWithHeaderKek s = .next { s with
      kek := deriveKek s.ks s.hdr, kbit := unwrap16 (deriveKek s.ks s.hdr) s.kbit,
      kc := unwrap16 (deriveKek s.ks s.hdr) s.kc, valid := s.valid ||| 0x010, phase := .keysUnwrapped } := by
  have hkeys : s.valid ||| (vKbit ||| vKc) = s.valid := valid_or_of_ready hr (by decide)
  have hvalid : s.valid ||| vKek ||| vKbit ||| vKc = s.valid ||| 0x010 :=
    calc s.valid ||| vKek ||| vKbit ||| vKc = s.valid ||| (vKbit ||| vKc) ||| vKek := by ac_rfl
      _ = s.valid ||| 0x010 := by rw [hkeys]; rfl
  simp only [unwrapWithHeaderKek, State.putKek, State.putKbit, State.putKc, hvalid]

/-! ## `LD_TABLE` (R193, R196) -/

/-- The budget of a header that covers the fixed bytes is the natural number of the rule. -/
theorem tableBudget_eq_sub {h : BitVec 256} (hle : 88 ≤ hdrHeaderSize h) :
    tableBudget h = ((hdrHeaderSize h - 88 : Nat) : Int) := by
  rw [tableBudget, Config.loadFixedBytes]
  omega

/-- The two's-complement 32-bit form of the budget. -/
theorem ofInt_tableBudget (h : BitVec 256) :
    BitVec.ofInt 32 (tableBudget h) = BitVec.ofNat 32 (hdrHeaderSize h + 4294967296 - 88) := by
  apply BitVec.eq_of_toNat_eq
  rw [BitVec.toNat_ofInt, BitVec.toNat_ofNat, tableBudget, Config.loadFixedBytes]
  omega

/-- The range of the budget is a range of `HeaderSize` (R196). -/
theorem tableBudget_inRange_iff {h : BitVec 256} :
    (8 ≤ tableBudget h ∧ tableBudget h ≤ (Config.tblBytes : Int)) ↔ 96 ≤ hdrHeaderSize h ∧ hdrHeaderSize h ≤ 4192 := by
  rw [tableBudget, Config.loadFixedBytes, Config.tblBytes]
  omega

/-- `LD_TABLE` after its first `need` line. -/
def loadWithinBudget (s : State) : Result :=
  if ¬ (8 ≤ tableBudget s.hdr ∧ tableBudget s.hdr ≤ (Config.tblBytes : Int)) then
    raise .invalidBitTableSize (BitVec.ofInt 32 (tableBudget s.hdr)) s
  else if tableBudget s.hdr % 8 ≠ 0 then raise .lengthError (BitVec.ofInt 32 (tableBudget s.hdr)) s
  else loadTable (tableBudget s.hdr).toNat s

theorem exec_ldTable (s : State) :
    exec .ldTable s = gateAt .keysUnwrapped (vHdr ||| vHsig ||| vKbit ||| vKc) loadWithinBudget s := rfl

section
variable {s : State}

theorem loadWithinBudget_of_size (hsize : hdrHeaderSize s.hdr < 96 ∨ 4192 < hdrHeaderSize s.hdr) :
    loadWithinBudget s = .next (takeError .invalidBitTableSize
      (BitVec.ofNat 32 (hdrHeaderSize s.hdr + 4294967296 - 88)) s) := by
  rw [loadWithinBudget, if_pos (mt tableBudget_inRange_iff.mp (by omega)), raise, ofInt_tableBudget]

theorem loadWithinBudget_of_length (hlo : 96 ≤ hdrHeaderSize s.hdr) (hhi : hdrHeaderSize s.hdr ≤ 4192)
    (h8 : (hdrHeaderSize s.hdr - 88) % 8 ≠ 0) :
    loadWithinBudget s = .next (takeError .lengthError (BitVec.ofNat 32 (hdrHeaderSize s.hdr - 88)) s) := by
  rw [loadWithinBudget, if_neg (not_not.mpr (tableBudget_inRange_iff.mpr ⟨hlo, hhi⟩)), tableBudget_eq_sub (by omega),
    if_pos (by omega), raise, BitVec.ofInt_natCast]

theorem loadWithinBudget_of_ok (hlo : 96 ≤ hdrHeaderSize s.hdr) (hhi : hdrHeaderSize s.hdr ≤ 4192)
    (h8 : (hdrHeaderSize s.hdr - 88) % 8 = 0) :
    loadWithinBudget s = loadTable (hdrHeaderSize s.hdr - 88) s := by
  rw [loadWithinBudget, if_neg (not_not.mpr (tableBudget_inRange_iff.mpr ⟨hlo, hhi⟩)), tableBudget_eq_sub (by omega),
    if_neg (by omega), Int.toNat_natCast]

end

section
variable {budget : Nat} {s : State}

theorem loadTable_of_missing (hm : missing (vTbl ||| vTsig ||| vRsig) false s ≠ 0) :
    loadTable budget s = .next (takeError .operandInvalid (missing (vTbl ||| vTsig ||| vRsig) false s) s) := by
  rw [loadTable, if_pos hm, raise]

theorem loadTable_of_count (hr : Ready (vTbl ||| vTsig ||| vRsig) false s)
    (hc : 256 < decryptedCount s budget ∨ budget < tableBytesOf (decryptedCount s budget)) :
    loadTable budget s =
      .next (takeError .invalidBitTableSize (BitVec.ofNat 32 (decryptedCount s budget)) s) := by
  rw [loadTable, if_neg (not_not.mpr hr.missing), if_pos (by rw [Config.maxBlocks]; omega), raise]

/-- `LD_TABLE` with its count check passed: only the two signatures are left to check. -/
theorem loadTable_of_count_ok (hr : Ready (vTbl ||| vTsig ||| vRsig) false s) (hc : decryptedCount s budget ≤ 256)
    (hb : tableBytesOf (decryptedCount s budget) ≤ budget) :
    loadTable budget s =
      if tableSig s.ks s.kbit s.kc ((loadedTable s budget).read 0 (tableBytesOf (decryptedCount s budget))) ≠ s.tsig
      then .next (takeError .invalidBitTableSignature 0 s)
      else if rootSig s.ks s.hsig s.tsig (loadedTable s budget) ≠ s.rsig
      then .next (takeError .invalidRootSignature 0 s)
      else .next { s with tbl := loadedTable s budget, phase := .tableVerified } := by
  rw [loadTable, if_neg (not_not.mpr hr.missing), if_neg (not_not.mpr ⟨hc, hb⟩), raise, raise]

/-- The decrypted table has the length of the budget when that is a number of whole units. -/
theorem decryptedTable_length (h8 : budget % 8 = 0) : (decryptedTable s budget).length = budget := by
  rw [decryptedTable, cbcDec_length (by rwa [Memory.read_length]), Memory.read_length]

theorem stores_loadedTable (ht : s.tbl.wf = true) (h8 : budget % 8 = 0) :
    Stores s.tbl (loadedTable s budget) 0 budget (decryptedTable s budget) :=
  stores_write ht (decryptedTable_length h8)

end

/-! ## `ContentCipher` (R218) -/

/-- The walk over the content of `LD_CONTENT`, `CONTENT_DEC` and `CONTENT_ENC` after their `need` line; `done` is what
the command writes besides MEM. -/
def cipherContent (f : CipherKey → Block → Bytes → Bytes) (done : State → State) (s : State) : Result :=
  match contentCipher f s with
  | .error e => raise e.1 e.2 s
  | .ok m => .next (done { s with mem := m })

theorem exec_contentDec (s : State) :
    exec .contentDec s = afterNeed (vHdr ||| vKc ||| vTbl) (cipherContent cbcDec fun t => t) s := rfl

theorem exec_contentEnc (s : State) :
    exec .contentEnc s = afterNeed (vHdr ||| vKc ||| vTbl) (cipherContent cbcEnc fun t => t) s := rfl

theorem encryptedBlocks_eq_nil {t : Memory} :
    encryptedBlocks t = [] ↔ ∀ j < tCount t, isEncrypted t j = false := by
  simp [encryptedBlocks, blockIndices]

theorem mem_encryptedBlocks {t : Memory} {j : Nat} :
    j ∈ encryptedBlocks t ↔ j < tCount t ∧ isEncrypted t j = true := by
  simp [encryptedBlocks, blockIndices]

theorem firstMisaligned_eq_some {t : Memory} {j : Nat} (hj : j < tCount t) (he : isEncrypted t j = true)
    (hbad : dSize t j % 8 ≠ 0) (hfirst : ∀ b < j, isEncrypted t b = true → dSize t b % 8 = 0) :
    firstMisaligned t = some j := by
  rw [firstMisaligned, encryptedBlocks, List.find?_filter, blockIndices, List.find?_range_eq_some]
  refine ⟨by simp [he, hbad], List.mem_range.mpr hj, fun b hb => ?_⟩
  simpa [imp_iff_not_or] using hfirst b hb

theorem firstMisaligned_eq_none {t : Memory}
    (hok : ∀ j < tCount t, isEncrypted t j = true → dSize t j % 8 = 0) : firstMisaligned t = none := by
  rw [firstMisaligned, List.find?_eq_none]
  intro j hj
  obtain ⟨hlt, he⟩ := mem_encryptedBlocks.mp hj
  simpa using hok j hlt he

section
variable {f : CipherKey → Block → Bytes → Bytes} {s : State} {k : CipherKey}

theorem contentCipher_of_count (hc : 256 < tCount s.tbl) :
    contentCipher f s = .error (.invalidBitTableSize, BitVec.ofNat 32 (tCount s.tbl)) := by
  rw [contentCipher, if_pos (show Config.maxBlocks < _ from hc)]

theorem contentCipher_of_content (hc : tCount s.tbl ≤ 256) (hf : ¬ Fits s s.contbase.toNat (totalSize s.tbl)) :
    contentCipher f s = .error (.accessFault, s.contbase) := by
  rw [contentCipher, if_neg (show ¬ Config.maxBlocks < _ from Nat.not_lt.mpr hc),
    if_pos (contentInRange_of_not_fits hf)]

/-- With no ENCRYPTED block the selector is not looked at, and MEM stays as it is. -/
theorem contentCipher_of_plain (hc : tCount s.tbl ≤ 256) (hf : Fits s s.contbase.toNat (totalSize s.tbl))
    (he : encryptedBlocks s.tbl = []) : contentCipher f s = .ok s.mem := by
  rw [contentCipher, if_neg (show ¬ Config.maxBlocks < _ from Nat.not_lt.mpr hc),
    if_neg (by simp [contentInRange_of_fits hf]), if_pos (by simp [he])]

theorem contentCipher_of_no_key (hc : tCount s.tbl ≤ 256) (hf : Fits s s.contbase.toNat (totalSize s.tbl))
    (he : encryptedBlocks s.tbl ≠ []) (hk : selectKey (contentKn s.hdr) (s.kc ++ s.params.contentK3) = none) :
    contentCipher f s = .error (.invalidKeyCount, BitVec.ofNat 32 (contentKn s.hdr)) := by
  rw [contentCipher, if_neg (show ¬ Config.maxBlocks < _ from Nat.not_lt.mpr hc),
    if_neg (by simp [contentInRange_of_fits hf]), if_neg (by simpa using he), hk]

theorem contentCipher_of_length {j : Nat} (hc : tCount s.tbl ≤ 256)
    (hf : Fits s s.contbase.toNat (totalSize s.tbl)) (he : encryptedBlocks s.tbl ≠ [])
    (hk : selectKey (contentKn s.hdr) (s.kc ++ s.params.contentK3) = some k) (hj : firstMisaligned s.tbl = some j) :
    contentCipher f s = .error (.lengthError, BitVec.ofNat 32 j) := by
  rw [contentCipher, if_neg (show ¬ Config.maxBlocks < _ from Nat.not_lt.mpr hc),
    if_neg (by simp [contentInRange_of_fits hf]), if_neg (by simpa using he), hk, hj]

theorem contentCipher_of_ok (hc : tCount s.tbl ≤ 256) (hf : Fits s s.contbase.toNat (totalSize s.tbl))
    (he : encryptedBlocks s.tbl ≠ []) (hk : selectKey (contentKn s.hdr) (s.kc ++ s.params.contentK3) = some k)
    (hj : firstMisaligned s.tbl = none) :
    contentCipher f s = .ok ((encryptedBlocks s.tbl).foldl (cipherBlock f k s) s.mem) := by
  rw [contentCipher, if_neg (show ¬ Config.maxBlocks < _ from Nat.not_lt.mpr hc),
    if_neg (by simp [contentInRange_of_fits hf]), if_neg (by simpa using he), hk, hj]

end

section
variable {f : CipherKey → Block → Bytes → Bytes} {done : State → State} {s : State}

theorem cipherContent_of_error {e : EngineError} {w : Word} (h : contentCipher f s = .error (e, w)) :
    cipherContent f done s = .next (takeError e w s) := by
  rw [cipherContent, h]
  rfl

theorem cipherContent_of_ok {m : Memory} (h : contentCipher f s = .ok m) :
    cipherContent f done s = .next (done { s with mem := m }) := by
  rw [cipherContent, h]

/-- The selector of a header has two bits, so that one other than 0 selects a key (R221). -/
theorem exists_contentKey {keys : BitVec 192} {h : BitVec 256} (hkn : contentKn h ≠ 0) :
    ∃ k, selectKey (contentKn h) keys = some k := by
  refine Option.ne_none_iff_exists'.mp fun hnone => ?_
  have hlt : contentKn h < 4 := Nat.mod_lt _ (by decide)
  have := selectKey_eq_none.mp hnone
  omega

/-- The rule of a command that is, from the phases that `here` allows, a `need` line and then `ContentCipher` with a
length-preserving cipher function. -/
theorem contentRule_of_exec {op : Word} {i : Instr} {here : Phase → Prop} (hdecode : decode op = .ok i)
    (hhere : ∀ p, here p → p ≠ .rejected)
    (hexec : ∀ s, here s.phase → exec i s = afterNeed (vHdr ||| vKc ||| vTbl) (cipherContent f done) s)
    (hlen : ∀ k iv l, l.length % 8 = 0 → (f k iv l).length = l.length) : ContentRule op i f here done := by
  refine ⟨hdecode, fun s hs => ?_⟩
  simp only [Raises, hexec s hs]
  refine ⟨afterNeed_of_missing (hhere _ hs), fun hr => ?_⟩
  rw [afterNeed_of_ready hr]
  refine ⟨fun hc => cipherContent_of_error (contentCipher_of_count hc),
    fun hc hf => cipherContent_of_error (contentCipher_of_content hc hf), fun hc hf => ⟨fun hplain => ?_, ?_⟩⟩
  · exact cipherContent_of_ok (contentCipher_of_plain hc hf (encryptedBlocks_eq_nil.mpr hplain))
  intro e he hee
  have hsome : encryptedBlocks s.tbl ≠ [] := List.ne_nil_of_mem (mem_encryptedBlocks.mpr ⟨he, hee⟩)
  refine ⟨fun hkn => ?_, fun hkn => ⟨fun j hj hje hbad hfirst => ?_, fun hok hm k hk => ?_⟩⟩
  · have hnone : selectKey (contentKn s.hdr) (s.kc ++ s.params.contentK3) = none := by rw [hkn]; rfl
    have herror := contentCipher_of_no_key (f := f) hc hf hsome hnone
    rw [hkn] at herror
    exact cipherContent_of_error herror
  · obtain ⟨k, hk⟩ := exists_contentKey (keys := s.kc ++ s.params.contentK3) hkn
    exact cipherContent_of_error
      (contentCipher_of_length hc hf hsome hk (firstMisaligned_eq_some hj hje hbad hfirst))
  · obtain ⟨-, hstored, hframe⟩ := foldl_cipherBlock_get (f := f) (k := k) (hlen k _) hm fun j hj =>
      hok j (mem_encryptedBlocks.mp hj).1 (mem_encryptedBlocks.mp hj).2
    exact ⟨_, cipherContent_of_ok
      (contentCipher_of_ok hc hf hsome (selectKey_eq_some.mpr hk) (firstMisaligned_eq_none hok)), hstored, hframe⟩

end

/-! ## `LD_CONTENT` (R194) -/

theorem exec_ldContent (s : State) :
    exec .ldContent s = gateAt .tableVerified (vHdr ||| vKc ||| vTbl)
      (cipherContent cbcDec fun t => { t with phase := .contentDecrypted }) s := rfl

/-! ## `LD_VERIFY` (R195) -/

/-- The first index of a range at which a search answers something. -/
theorem findSome?_range_eq_some {α : Type} {g : Nat → Option α} {n i : Nat} {a : α} (hi : i < n) (ha : g i = some a)
    (hfirst : ∀ j < i, g j = none) : (List.range n).findSome? g = some a := by
  obtain ⟨k, rfl⟩ : ∃ k, n = i + (k + 1) := ⟨n - i - 1, by omega⟩
  rw [List.range_add, List.findSome?_append,
    List.findSome?_eq_none_iff.mpr fun j hj => hfirst j (List.mem_range.mp hj), Option.none_or,
    List.range_succ_eq_map, List.map_cons, Nat.add_zero, List.findSome?_cons, ha]

section
variable {s : State} {i : Nat}

theorem blockProblem_eq_none
    (h : isSigned s.tbl i = true → blockLenOk s.tbl i = true ∧ blockSig s i = dSig s.tbl i) :
    blockProblem s i = none := by
  rw [blockProblem]
  split
  case isTrue => rfl
  case isFalse hs =>
    obtain ⟨hlen, hsig⟩ := h (by simpa using hs)
    rw [if_neg (by simp [hlen]), if_neg (not_not.mpr hsig)]

theorem blockProblem_of_length (hs : isSigned s.tbl i = true) (hlen : blockLenOk s.tbl i = false) :
    blockProblem s i = some (.lengthError, BitVec.ofNat 32 i) := by
  rw [blockProblem, if_neg (by simp [hs]), if_pos hlen]

theorem blockProblem_of_signature (hs : isSigned s.tbl i = true) (hlen : blockLenOk s.tbl i = true)
    (hsig : blockSig s i ≠ dSig s.tbl i) :
    blockProblem s i = some (.invalidContentSignature, BitVec.ofNat 32 i) := by
  rw [blockProblem, if_neg (by simp [hs]), if_neg (by simp [hlen]), if_pos hsig]

/-- `LD_VERIFY` after its count check. -/
def verifyBlocks (s : State) : Result :=
  if contentInRange s = false then raise .accessFault s.contbase s
  else match (blockIndices s.tbl).findSome? (blockProblem s) with
    | some e => raise e.1 e.2 s
    | none => .next { s with phase := .verified }

theorem exec_ldVerify (s : State) :
    exec .ldVerify s = gateAt .contentDecrypted vTbl (afterCount verifyBlocks) s := rfl

theorem verifyBlocks_of_content (hf : ¬ Fits s s.contbase.toNat (totalSize s.tbl)) :
    verifyBlocks s = .next (takeError .accessFault s.contbase s) := by
  rw [verifyBlocks, if_pos (contentInRange_of_not_fits hf), raise]

theorem verifyBlocks_of_problem {e : EngineError} {w : Word} (hf : Fits s s.contbase.toNat (totalSize s.tbl))
    (hi : i < tCount s.tbl) (hproblem : blockProblem s i = some (e, w))
    (hfirst : ∀ j < i, isSigned s.tbl j = true → blockLenOk s.tbl j = true ∧ blockSig s j = dSig s.tbl j) :
    verifyBlocks s = .next (takeError e w s) := by
  have hfind : (blockIndices s.tbl).findSome? (blockProblem s) = some (e, w) :=
    findSome?_range_eq_some hi hproblem fun j hj => blockProblem_eq_none (hfirst j hj)
  rw [verifyBlocks, if_neg (by simp [contentInRange_of_fits hf]), hfind]
  rfl

theorem verifyBlocks_of_ok (hf : Fits s s.contbase.toNat (totalSize s.tbl))
    (hok : ∀ i < tCount s.tbl, isSigned s.tbl i = true →
      blockLenOk s.tbl i = true ∧ blockSig s i = dSig s.tbl i) :
    verifyBlocks s = .next { s with phase := .verified } := by
  have hfind : (blockIndices s.tbl).findSome? (blockProblem s) = none :=
    List.findSome?_eq_none_iff.mpr fun i hi => blockProblem_eq_none (hok i (List.mem_range.mp hi))
  rw [verifyBlocks, if_neg (by simp [contentInRange_of_fits hf]), hfind]

end

/-! ## `SV_SEAL` (R198) -/

theorem exec_svSeal (s : State) :
    exec .svSeal s =
      afterNeed (vHdr ||| vKbit ||| vKc ||| vTbl) (afterCount fun s => .next (sealed s)) s := rfl

/-- `KBIT` and `KC` are valid already, so the bits of `HSIG`, `TSIG`, `RSIG` and `KEK` are the new ones. -/
theorem sealed_of_ready {s : State} (hr : Ready (vHdr ||| vKbit ||| vKc ||| vTbl) true s) :
    sealed s = { s with
      hsig := mac3 s.ks (bytesOf 32 s.hdr), tsig := sealTableSig s,
      rsig := rootSig s.ks (mac3 s.ks (bytesOf 32 s.hdr)) (sealTableSig s) s.tbl, kek := deriveKek s.ks s.hdr,
      kbit := wrap16 (deriveKek s.ks s.hdr) s.kbit, kc := wrap16 (deriveKek s.ks s.hdr) s.kc,
      tbl := s.tbl.write 0 (cbcEnc (twoKey s.kbit) s.ks.tableIv (s.tbl.read 0 (tableBytes s.tbl))),
      valid := s.valid ||| 0x072 } := by
  have hkeys : s.valid ||| (vKbit ||| vKc) = s.valid := valid_or_of_ready hr (by decide)
  have hvalid : s.valid ||| vHsig ||| vTsig ||| vRsig ||| vKek ||| vKbit ||| vKc = s.valid ||| 0x072 :=
    calc s.valid ||| vHsig ||| vTsig ||| vRsig ||| vKek ||| vKbit ||| vKc
        = s.valid ||| (vKbit ||| vKc) ||| (vHsig ||| vTsig ||| vRsig ||| vKek) := by ac_rfl
      _ = s.valid ||| 0x072 := by rw [hkeys]; rfl
  simp only [sealed, State.putHsig, State.putTsig, State.putRsig, State.putKek, State.putKbit, State.putKc, hvalid]

/-- The encrypted table has the length of the plain one. -/
theorem cbcEnc_table_length (k : CipherKey) (iv : Block) (t : Memory) :
    (cbcEnc k iv (t.read 0 (tableBytes t))).length = tableBytes t := by
  have h8 : (t.read 0 (tableBytes t)).length % 8 = 0 := by
    rw [Memory.read_length, tableBytes, tableBytesOf, Config.block]
    omega
  rw [cbcEnc_length h8, Memory.read_length]

end Sys2Proof.Laws.LoadSave

open Sys2Proof Sys2Proof.Machine Sys2Proof.Laws.CipherEngine Sys2Proof.Laws.KeyPipeline
open Sys2Proof.Laws.SignatureEngine Sys2Proof.Laws.LoadSave

/-- Settles O34: the gate's shared checks, then one rule for each check of the header; the example is that of
`SIG_HEADER`. -/
theorem ldHeaderFollowsItsRule : Obligations.LdHeaderFollowsItsRule := by
  unfold Obligations.LdHeaderFollowsItsRule
  obtain ⟨-, hexample, -⟩ := sigHeaderFollowsItsRule
  refine ⟨decode_opcode_keyCount (i := .ldHeader) (by decide), hexample, fun s => ?_⟩
  simp only [Raises, exec_ldHeader]
  refine ⟨gateAt_of_other_phase, fun hp => gateAt_of_missing hp (by decide), fun hp hr => ?_⟩
  rw [gateAt_of_ready hp hr]
  exact ⟨checkHeader_of_variant, checkHeader_of_signature, checkHeader_of_ok⟩

/-- Settles O35: the gate's shared checks, then the writes; the example is that of `DERIVE_KEK` followed by that of
`UNWRAP_KEYS`. -/
theorem ldKeysFollowsItsRule : Obligations.LdKeysFollowsItsRule := by
  unfold Obligations.LdKeysFollowsItsRule
  obtain ⟨-, -, hkek, -⟩ := deriveKekFollowsItsRule
  obtain ⟨-, hunwrap, -⟩ := unwrapKeysFollowsItsRule
  refine ⟨decode_opcode_keyCount (i := .ldKeys) (by decide), hkek ▸ hunwrap, fun s => ?_⟩
  simp only [Raises, exec_ldKeys]
  refine ⟨gateAt_of_other_phase, fun hp => gateAt_of_missing hp (by decide), fun hp hr => ?_⟩
  rw [gateAt_of_ready hp hr, unwrapWithHeaderKek_of_ready hr]

/-- Settles O36: the gate's shared checks, the budget, the second `need` line, the count, then the two signatures in
order; the example is evaluated. -/
theorem ldTableFollowsItsRule : Obligations.LdTableFollowsItsRule := by
  unfold Obligations.LdTableFollowsItsRule
  refine ⟨decode_opcode_keyCount (i := .ldTable) (by decide), by decide +kernel, ?_⟩
  rintro s budget tb c m rfl rfl rfl rfl
  simp only [Raises, exec_ldTable]
  refine ⟨gateAt_of_other_phase, fun hp => gateAt_of_missing hp (by decide), fun hp hr => ?_⟩
  rw [gateAt_of_ready hp hr]
  refine ⟨loadWithinBudget_of_size, fun hlo hhi => ⟨loadWithinBudget_of_length hlo hhi, ?_, ?_⟩⟩ <;> intro h8 <;>
    rw [loadWithinBudget_of_ok hlo hhi h8]
  · exact loadTable_of_missing
  intro hr2
  refine ⟨loadTable_of_count hr2, fun hc hb => ?_⟩
  rw [loadTable_of_count_ok hr2 hc hb]
  exact ⟨fun htsig => if_pos htsig, fun htsig hrsig => (if_neg (not_not.mpr htsig)).trans (if_pos hrsig),
    fun htsig hrsig ht => ⟨(if_neg (not_not.mpr htsig)).trans (if_neg (not_not.mpr hrsig)),
      stores_loadedTable ht h8⟩⟩

/-- Settles O37: the gate's shared checks, then the shared rule of `ContentCipher`. -/
theorem ldContentFollowsItsRule : Obligations.LdContentFollowsItsRule := by
  unfold Obligations.LdContentFollowsItsRule
  refine ⟨fun s hp hr => ?_, contentRule_of_exec ?_ ?_ ?_ fun _ _ _ => cbcDec_length⟩
  · rw [Raises, exec_ldContent, gateAt_of_other_phase hp hr]
  · exact decode_opcode_keyCount (i := .ldContent) (by decide)
  · rintro p rfl
    decide
  · intro s hp
    rw [exec_ldContent, gateAt_of_phase hp]

/-- Settles O38: the gate's shared checks, the count and the range, then the search for the first block with a
problem. -/
theorem ldVerifyFollowsItsRule : Obligations.LdVerifyFollowsItsRule := by
  unfold Obligations.LdVerifyFollowsItsRule
  refine ⟨decode_opcode_keyCount (i := .ldVerify) (by decide), fun s => ?_⟩
  simp only [Raises, exec_ldVerify]
  refine ⟨gateAt_of_other_phase, fun hp => gateAt_of_missing hp (by decide), fun hp hr => ?_⟩
  rw [gateAt_of_phase hp]
  refine ⟨afterNeed_afterCount_of_lt hr, fun hc => ?_, fun hc hf => ?_⟩ <;> rw [afterNeed_afterCount_of_le hr hc]
  · exact verifyBlocks_of_content
  · exact ⟨fun i hi hs hfirst =>
      ⟨fun hlen => verifyBlocks_of_problem hf hi (blockProblem_of_length hs hlen) hfirst,
        fun hlen hsig => verifyBlocks_of_problem hf hi (blockProblem_of_signature hs hlen hsig) hfirst⟩,
      verifyBlocks_of_ok hf⟩

/-- Settles O39: the `need` line and the count check, then the writes. The examples are that of `SIG_ROOT` and that of
`LD_KEYS` wrapped again. -/
theorem svSealFollowsItsRule : Obligations.SvSealFollowsItsRule := by
  unfold Obligations.SvSealFollowsItsRule
  obtain ⟨-, hroot, -⟩ := sigRootFollowsItsRule
  obtain ⟨-, hunwrap, -⟩ := ldKeysFollowsItsRule
  refine ⟨decode_opcode_keyCount (i := .svSeal) (by decide), hroot, by rw [← hunwrap, wrap16_unwrap16], ?_⟩
  rintro s nb hs ts kek hp rfl rfl rfl rfl
  simp only [Raises, exec_svSeal]
  refine ⟨afterNeed_of_missing hp, afterNeed_afterCount_of_lt, fun hr hc ht => ?_⟩
  rw [afterNeed_afterCount_of_le hr hc, sealed_of_ready hr]
  exact ⟨_, rfl, stores_write ht (cbcEnc_table_length _ _ _)⟩

end

section
/-! The transition table of `PHASE` (spec/44_load_save_sequencer.md R200): where the answer of each command and of each
host transaction leaves `PHASE`, command by command along the dispatch and transaction by transaction along the
interface. -/

namespace Sys2Proof.Laws.PhaseTable

open Sys2Proof Sys2Proof.Machine Sys2Proof.Laws.SignatureEngine Sys2Proof.Laws.LoadSave

/-! ## Where an answer leaves `PHASE` -/

/-- An answer that goes on leaves `PHASE` at `p`, or has taken an error. -/
def EndsIn (p : Phase) (r : Result) : Prop := ∀ t, r = .next t → t.phase = p ∨ t.phase = .rejected

section
variable {p : Phase} {a b : Result} {s : State}

theorem EndsIn.next (h : s.phase = p) : EndsIn p (.next s) := by
  rintro t ⟨⟩
  exact .inl h

theorem EndsIn.raise {e : EngineError} {w : Word} : EndsIn p (raise e w s) := by
  rintro t ⟨⟩
  exact .inr rfl

theorem EndsIn.refused {r : Refusal} : EndsIn p (.refused r) := nofun

theorem EndsIn.ite {c : Prop} [Decidable c] (ha : EndsIn p a) (hb : EndsIn p b) : EndsIn p (if c then a else b) := by
  split
  case isTrue => exact ha
  case isFalse => exact hb

theorem code_le_rejected (p : Phase) : p.code ≤ Phase.code .rejected := by
  cases p <;> decide

/-- `Rejected` has the greatest number, so that an answer which leaves no lower phase moves `PHASE` forwards. -/
theorem EndsIn.forward {q : Phase} {t : State} (h : EndsIn q a) (hpq : p.code ≤ q.code) (ht : a = .next t) :
    p.code ≤ t.phase.code := by
  rcases h t ht with hq | hr
  · rwa [hq]
  · rw [hr]
    exact code_le_rejected p

end

/-! ## What the commands share -/

section
variable {p : Phase} {names : BitVec 12} {body : State → Result} {s : State}

theorem afterNeed_endsIn (h : EndsIn s.phase (body s)) : EndsIn s.phase (afterNeed names body s) :=
  .ite (.next rfl) (.ite .raise h)

theorem afterCount_endsIn (h : EndsIn p (body s)) : EndsIn p (afterCount body s) := .ite .raise h

theorem gateAt_endsIn {q : Phase} (hp : s.phase = p) (hr : p ≠ .rejected) (h : EndsIn q (body s)) :
    EndsIn q (gateAt p names body s) := by
  rw [gateAt, if_neg (hp ▸ hr), if_neg (not_not.mpr hp)]
  exact .ite .raise h

theorem cipherBuffer_endsIn {f : CipherKey → Block → Bytes → Bytes} {kn : Nat} :
    EndsIn s.phase (cipherBuffer f kn s) := by
  intro t ht
  rcases cipherBuffer_cases ht with ⟨-, rfl⟩ | ⟨-, e, w, rfl, -⟩ | ⟨-, k, -, -, -, -, rfl⟩
  · exact .inl rfl
  · exact .inr rfl
  · exact .inl rfl

theorem signBuffer_endsIn {lenOk : Nat → Prop} [DecidablePred lenOk] {f : KeyStore → Bytes → Block} :
    EndsIn s.phase (signBuffer lenOk f s) := .ite .raise (.ite .raise (.next rfl))

theorem signEveryBlock_endsIn : EndsIn s.phase (signEveryBlock s) := by
  unfold signEveryBlock
  refine .ite .raise ?_
  split
  case h_1 => exact .raise
  case h_2 => exact .next rfl

theorem cipherContent_endsIn {f : CipherKey → Block → Bytes → Bytes} {done : State → State}
    (h : ∀ m, (done { s with mem := m }).phase = p) : EndsIn p (cipherContent f done s) := by
  unfold cipherContent
  split
  case h_1 => exact .raise
  case h_2 m _ => exact .next (h m)

theorem loadTable_endsIn {budget : Nat} : EndsIn .tableVerified (loadTable budget s) := by
  intro t ht
  rcases loadTable_cases ht with ⟨e, w, rfl⟩ | ⟨-, rfl⟩
  · exact .inr rfl
  · exact .inl rfl

theorem verifyBlocks_endsIn : EndsIn .verified (verifyBlocks s) := by
  unfold verifyBlocks
  refine .ite .raise ?_
  split
  case h_1 => exact .raise
  case h_2 => exact .next rfl

end

/-! ## The commands -/

theorem sealed_phase (s : State) : (sealed s).phase = s.phase := by simp [sealed]

/-- Every command that is no gate and not `CLEAR` keeps `PHASE` or takes an error. -/
theorem exec_endsIn {i : Instr} (s : State) (hgate : gateOf i = none) (hclear : i ≠ .clear) :
    EndsIn s.phase (exec i s) := by
  cases i with
  | nop => exact .next rfl
  | ksLock => exact .ite (.next rfl) (.ite (.next rfl) (.ite .raise (.next rfl)))
  | clear => exact absurd rfl hclear
  | cbcEnc kn => exact cipherBuffer_endsIn
  | cbcDec kn => exact cipherBuffer_endsIn
  | xorBuf => exact .ite (.next rfl) (.ite .raise (.ite .raise (.ite .raise (.next rfl))))
  | fold8 => exact .ite (.next rfl) (.ite .raise (.ite .raise (.ite .raise (.next rfl))))
  | deriveKek => exact .ite (.next rfl) (.ite .raise (.next rfl))
  | unwrapKeys => exact .ite (.next rfl) (.ite .raise (.next rfl))
  | wrapKeys => exact .ite (.next rfl) (.ite .raise (.next rfl))
  | mac3 =>
    rw [exec_mac3]
    exact afterNeed_endsIn signBuffer_endsIn
  | foldSig =>
    rw [exec_foldSig]
    exact afterNeed_endsIn signBuffer_endsIn
  | sigHeader =>
    rw [exec_sigHeader]
    exact afterNeed_endsIn (.next rfl)
  | sigTable =>
    rw [exec_sigTable]
    exact afterNeed_endsIn (afterCount_endsIn (.next rfl))
  | sigRoot =>
    rw [exec_sigRoot]
    exact afterNeed_endsIn (afterCount_endsIn (.next rfl))
  | sigBlock =>
    rw [exec_sigBlock]
    exact afterNeed_endsIn (afterCount_endsIn (.ite .raise (.ite .raise (.ite .raise (.next rfl)))))
  | signBlocks =>
    rw [exec_signBlocks]
    exact afterNeed_endsIn (afterCount_endsIn signEveryBlock_endsIn)
  | svSeal =>
    rw [exec_svSeal]
    exact afterNeed_endsIn (afterCount_endsIn (.next (sealed_phase s)))
  | tableDec => exact .ite (.next rfl) (.ite .raise (.ite .raise (.ite .raise (.next rfl))))
  | tableEnc => exact .ite (.next rfl) (.ite .raise (.ite .raise (.next rfl)))
  | contentDec =>
    rw [exec_contentDec]
    exact afterNeed_endsIn (cipherContent_endsIn fun _ => rfl)
  | contentEnc =>
    rw [exec_contentEnc]
    exact afterNeed_endsIn (cipherContent_endsIn fun _ => rfl)
  | ldHeader => cases hgate
  | ldKeys => cases hgate
  | ldTable => cases hgate
  | ldContent => cases hgate
  | ldVerify => cases hgate

/-- What every gate of R190 is: the shared checks at its phase `p`, and then a body that ends in its success phase `q`,
which comes after `p`. -/
theorem exec_gate {i : Instr} {p q : Phase} (hgate : gateOf i = some (p, q)) :
    p ≠ .rejected ∧ p.code ≤ q.code ∧
      ∃ names body, (∀ s, exec i s = gateAt p names body s) ∧ ∀ s, EndsIn q (body s) := by
  cases i with
  | ldHeader =>
    cases hgate
    exact ⟨by decide, by decide, _, _, exec_ldHeader, fun _ => .ite .raise (.ite .raise (.next rfl))⟩
  | ldKeys =>
    cases hgate
    exact ⟨by decide, by decide, _, _, exec_ldKeys, fun _ => .next rfl⟩
  | ldTable =>
    cases hgate
    exact ⟨by decide, by decide, _, _, exec_ldTable, fun _ => .ite .raise (.ite .raise loadTable_endsIn)⟩
  | ldContent =>
    cases hgate
    exact ⟨by decide, by decide, _, _, exec_ldContent, fun _ => cipherContent_endsIn fun _ => rfl⟩
  | ldVerify =>
    cases hgate
    exact ⟨by decide, by decide, _, _, exec_ldVerify, fun _ => afterCount_endsIn verifyBlocks_endsIn⟩
  | _ => cases hgate

theorem gate_endsIn {i : Instr} {s : State} {p q : Phase} (hgate : gateOf i = some (p, q)) (hp : s.phase = p) :
    EndsIn q (exec i s) := by
  obtain ⟨hr, -, names, body, hexec, hbody⟩ := exec_gate hgate
  rw [hexec]
  exact gateAt_endsIn hp hr (hbody s)

theorem gate_of_other_phase {i : Instr} {s : State} {p q : Phase} (hgate : gateOf i = some (p, q))
    (hp : s.phase ≠ p) (hr : s.phase ≠ .rejected) :
    exec i s = .next (takeError .sequenceError (BitVec.ofNat 32 s.phase.code) s) := by
  obtain ⟨-, -, names, body, hexec, -⟩ := exec_gate hgate
  rw [hexec, gateAt_of_other_phase hp hr]

/-- In `Rejected` every command but `CLEAR` ends at its first test (R259, R262). -/
theorem exec_of_rejected {i : Instr} {s : State} (hclear : i ≠ .clear) (hp : s.phase = .rejected) :
    exec i s = .next s := by
  cases i with
  | nop => rfl
  | clear => exact absurd rfl hclear
  | _ => exact if_pos hp

/-- No command but `CLEAR` moves `PHASE` backwards. -/
theorem exec_forward {i : Instr} {s t : State} (hclear : i ≠ .clear) (h : exec i s = .next t) :
    s.phase.code ≤ t.phase.code := by
  by_cases hr : s.phase = .rejected
  · rw [exec_of_rejected hclear hr] at h
    cases h
    exact le_rfl
  cases hgate : gateOf i with
  | none => exact (exec_endsIn s hgate hclear).forward le_rfl h
  | some pq =>
    obtain ⟨p, q⟩ := pq
    by_cases hp : s.phase = p
    · obtain ⟨-, hcode, -⟩ := exec_gate hgate
      exact (gate_endsIn hgate hp).forward (hp ▸ hcode) h
    · rw [gate_of_other_phase hgate hp hr] at h
      cases h
      exact code_le_rejected _

/-! ## The host transactions -/

/-- The word of `CLEAR` is the only one that decodes to it (R94). -/
theorem eq_of_decode_clear {w : Word} (h : decode w = .ok .clear) : w = 0x00000002 := by
  have hword := (Laws.Decoder.decode_eq_ok_iff_maskAll w rfl).mp h
  rwa [show w &&& 0xFFFFFFFF = w from BitVec.and_allOnes] at hword

/-- No command word but that of `CLEAR` moves `PHASE` backwards. -/
theorem hostCommand_forward {w : Word} {s t : State} (hw : w ≠ 0x00000002) (h : hostCommand w s = .next t) :
    s.phase.code ≤ t.phase.code := by
  rcases hostCommand_cases w s with ⟨-, hclear, -⟩ | ⟨-, -, hanswer⟩ | ⟨-, -, hanswer⟩ | ⟨-, i, hdecode, hanswer⟩
  · exact absurd hclear hw
  · rw [hanswer] at h
    cases h
    exact le_rfl
  · rw [hanswer] at h
    exact EndsIn.raise.forward le_rfl h
  · rw [hanswer] at h
    refine exec_forward ?_ h
    rintro rfl
    exact hw (eq_of_decode_clear hdecode)

section
variable {s : State}

theorem hostWriteKey_endsIn {k : Slot} {v : Bytes} : EndsIn s.phase (hostWriteKey k v s) :=
  .ite (.next rfl) (.ite .raise (.next rfl))

theorem writeData_phase (d : DataReg) (v : Bytes) (s : State) : (writeData d v s).phase = s.phase := by
  cases d <;> rfl

theorem writeA_phase (i : Fin 4) (v : Word) (s : State) : (writeA i v s).phase = s.phase := by
  unfold writeA
  split <;> rfl

theorem hostWriteReg_endsIn {r : Reg} {v : Bytes} : EndsIn s.phase (hostWriteReg r v s) := by
  cases r with
  | data d => exact .ite (.next rfl) (.next (writeData_phase d v s))
  | slot k => exact hostWriteKey_endsIn
  | cmd => exact .refused
  | contbase => exact .refused
  | a i => exact .refused
  | _ => exact .next rfl

/-- A write of a number to any register but `CMD` keeps `PHASE`. -/
theorem hostSetReg_endsIn {r : Reg} {v : Nat} (hr : r ≠ .cmd) : EndsIn s.phase (hostSetReg r v s) := by
  cases r with
  | cmd => exact absurd rfl hr
  | a i => exact .ite (.next rfl) (.next (writeA_phase i _ s))
  | contbase => exact .ite (.next rfl) (.next rfl)
  | data d =>
    cases d with
    | sig => exact .next rfl
    | _ => exact .refused
  | slot k => exact .refused
  | _ => exact .next rfl

theorem hostReadReg_endsIn {r : Reg} : EndsIn s.phase (hostReadReg r s) := by
  unfold hostReadReg
  split
  case h_1 => exact .next rfl
  case h_2 => exact .refused

theorem hostReadRange_endsIn {m : Memory} {size addr n : Nat} : EndsIn s.phase (hostReadRange m size addr n s) :=
  .ite (.next rfl) (.ite (.next rfl) .raise)

/-- Register 0 is `CMD` and no other is (R35). -/
theorem number_eq_zero_of_cmd {n : Nat} (h : Reg.ofNumber n = some .cmd) : n = 0 := by
  have hnumber := List.find?_some h
  exact (beq_iff_eq.mp hnumber).symm

/-- A transaction that gives no command word and is no reset keeps `PHASE` or takes an error. -/
theorem perform_endsIn {x : Transaction} (hcommand : ∀ w, x ≠ .command w) (hset : ∀ v, x ≠ .setReg 0 v)
    (hreset : isReset x = false) : EndsIn s.phase (perform x s) := by
  cases x with
  | command w => exact absurd rfl (hcommand w)
  | writeKey n v =>
    simp only [perform]
    split
    case h_1 => exact hostWriteKey_endsIn
    case h_2 => exact .refused
  | writeReg n v =>
    simp only [perform]
    split
    case h_1 => exact hostWriteReg_endsIn
    case h_2 => exact .refused
  | setReg n v =>
    simp only [perform]
    split
    case h_1 r hr =>
      refine hostSetReg_endsIn ?_
      rintro rfl
      exact hset v (by rw [number_eq_zero_of_cmd hr])
    case h_2 => exact .refused
  | readReg n =>
    simp only [perform]
    split
    case h_1 => exact hostReadReg_endsIn
    case h_2 => exact .refused
  | writeTbl off v => exact .ite (.next rfl) (.ite .raise (.next rfl))
  | readTbl off n => exact hostReadRange_endsIn
  | writeMem addr v => exact .ite (.next rfl) (.ite .raise (.next rfl))
  | readMem addr n => exact hostReadRange_endsIn
  | reset contents => cases hreset

/-- No transaction but the word of `CLEAR` and reset moves `PHASE` backwards. -/
theorem perform_forward {x : Transaction} {t : State} (hreset : isReset x = false) (hclear : isClear x = false)
    (h : perform x s = .next t) : s.phase.code ≤ t.phase.code := by
  by_cases hcommand : ∃ w, x = .command w
  · obtain ⟨w, rfl⟩ := hcommand
    exact hostCommand_forward (by simpa [isClear] using hclear) h
  by_cases hset : ∃ v, x = .setReg 0 v
  · obtain ⟨v, rfl⟩ := hset
    exact hostCommand_forward (by simpa [isClear] using hclear) h
  · exact (perform_endsIn (not_exists.mp hcommand) (not_exists.mp hset) hreset).forward le_rfl h

/-- A step that goes on has performed the next transaction on the state that has taken it. -/
theorem perform_of_step {x : Transaction} {rest : List Transaction} {t : State} (hinbox : s.inbox = x :: rest)
    (h : step s = .next t) : perform x (s.taking rest) = .next t := by
  unfold step takeNext at h
  rw [hinbox] at h
  dsimp only at h
  split at h
  case isTrue => exact h
  case isFalse => cases h

end

end Sys2Proof.Laws.PhaseTable

open Sys2Proof Sys2Proof.Machine Sys2Proof.Laws.PhaseTable

/-- Settles O15: one case split over the gates, one over the other commands, one over the transactions; `Rejected` has
the greatest number, and every gate's success phase comes after its own. -/
theorem phaseTransitionTable : Obligations.PhaseTransitionTable := by
  unfold Obligations.PhaseTransitionTable
  refine ⟨fun i s t p q hgate ht hp => gate_endsIn hgate hp t ht, fun i s p q => gate_of_other_phase,
    fun s => ⟨clearInstance s, rfl, rfl⟩, fun i s t hgate hclear => exec_endsIn s hgate hclear t,
    fun i s => exec_of_rejected, fun s t x rest hinbox ht hreset => ?_,
    fun s t x rest hinbox ht hcommand hset hreset => ?_, fun s t x rest hinbox ht hreset hclear => ?_⟩ <;>
    have hperform := perform_of_step hinbox ht
  · cases x with
    | reset contents =>
      cases hperform
      rfl
    | _ => cases hreset
  · exact perform_endsIn (s := s.taking rest) hcommand hset hreset t hperform
  · exact perform_forward (s := s.taking rest) hreset hclear hperform

end

section
/-! The table and content pipeline (spec/45_table_content_pipeline.md): one rule for each check and for the store of
`TABLE_DEC` (R216). `CONTENT_DEC` and `CONTENT_ENC` (R219, R220) are a `need` line and `ContentCipher`, whose rule they
share with `LD_CONTENT`. -/

namespace Sys2Proof.Laws.TableContent

open Sys2Proof Sys2Proof.Machine Sys2Proof.Laws.SignatureEngine

/-! ## `TABLE_DEC` (R216) -/

/-- `TABLE_DEC` after its `need` line. The table it leaves is the one `LD_TABLE` loads from a budget of `A[2]` bytes. -/
def decryptTable (s : State) : Result :=
  if Config.tblBytes < s.a2.toNat then raise .invalidBitTableSize s.a2 s
  else if s.a2.toNat % 8 ≠ 0 then raise .lengthError s.a2 s
  else .next { s with tbl := loadedTable s s.a2.toNat }

theorem exec_tableDec (s : State) : exec .tableDec s = afterNeed (vKbit ||| vTbl) decryptTable s := rfl

section
variable {s : State}

theorem decryptTable_of_size (hn : 4104 < s.a2.toNat) :
    decryptTable s = .next (takeError .invalidBitTableSize s.a2 s) := by
  rw [decryptTable, if_pos (show Config.tblBytes < _ from hn), raise]

theorem decryptTable_of_length (hn : s.a2.toNat ≤ 4104) (h8 : s.a2.toNat % 8 ≠ 0) :
    decryptTable s = .next (takeError .lengthError s.a2 s) := by
  rw [decryptTable, if_neg (show ¬ Config.tblBytes < _ from Nat.not_lt.mpr hn), if_pos h8, raise]

theorem decryptTable_of_ok (hn : s.a2.toNat ≤ 4104) (h8 : s.a2.toNat % 8 = 0) :
    decryptTable s = .next { s with tbl := loadedTable s s.a2.toNat } := by
  rw [decryptTable, if_neg (show ¬ Config.tblBytes < _ from Nat.not_lt.mpr hn), if_neg (not_not.mpr h8)]

end

end Sys2Proof.Laws.TableContent

open Sys2Proof Sys2Proof.Machine Sys2Proof.Laws.CipherEngine Sys2Proof.Laws.SignatureEngine
open Sys2Proof.Laws.LoadSave Sys2Proof.Laws.TableContent

/-- Settles O40: the `need` line, then one rule for each check of `A[2]`; the store and the example are those of
`LD_TABLE`. -/
theorem tableDecFollowsItsRule : Obligations.TableDecFollowsItsRule := by
  unfold Obligations.TableDecFollowsItsRule
  obtain ⟨-, hexample, -⟩ := ldTableFollowsItsRule
  refine ⟨decode_opcode_keyCount (i := .tableDec) (by decide), hexample, fun s hp => ?_⟩
  simp only [Raises, exec_tableDec]
  refine ⟨afterNeed_of_missing hp, fun hr hn => ?_, fun hr hn h8 => ?_, fun hr hn h8 ht => ?_⟩ <;>
    rw [afterNeed_of_ready hr]
  · exact decryptTable_of_size hn
  · exact decryptTable_of_length hn h8
  · exact ⟨_, decryptTable_of_ok hn h8, stores_loadedTable ht h8⟩

/-- Settles O42: the shared rule of `ContentCipher`, with CBC decryption. -/
theorem contentDecFollowsItsRule : Obligations.ContentDecFollowsItsRule := by
  unfold Obligations.ContentDecFollowsItsRule
  exact contentRule_of_exec (decode_opcode_keyCount (i := .contentDec) (by decide)) (fun _ hp => hp)
    (fun s _ => exec_contentDec s) fun _ _ _ => cbcDec_length

/-- Settles O43: the shared rule of `ContentCipher`, with CBC encryption; the examples are evaluated. -/
theorem contentEncFollowsItsRule : Obligations.ContentEncFollowsItsRule := by
  unfold Obligations.ContentEncFollowsItsRule
  refine ⟨contentRule_of_exec ?_ (fun _ hp => hp) (fun s _ => exec_contentEnc s) fun _ _ _ => cbcEnc_length,
    by decide, by decide +kernel⟩
  exact decode_opcode_keyCount (i := .contentEnc) (by decide)

end

section
/-! The management commands (spec/46_management.md R239 to R241). In `Rejected` no command but `CLEAR` acts, by
`exec_of_rejected`. -/

namespace Sys2Proof.Laws.Management

open Sys2Proof Sys2Proof.Machine

/-! ## `KS_LOCK` (R241) -/

theorem exec_ksLock (s : State) : exec .ksLock s = execKsLock s := rfl

/-- The ten bits of `~~~ KSPRESENT`, widened, are the low ten of the widened register's complement. -/
theorem absentSlots_eq_mask (s : State) : absentSlots s = ~~~ (s.kspresent.setWidth 32) &&& 0x3FF := by
  have hmask (i : Nat) : (0x3FF : Word).getLsbD i = decide (i < 10) := Nat.testBit_two_pow_sub_one 10 i
  refine BitVec.eq_of_getLsbD_eq fun i hi => ?_
  rw [BitVec.getLsbD_and, hmask]
  by_cases hslot : i < 10 <;> simp [absentSlots, hslot, hi]

/-- No slot is absent exactly when all ten are present. -/
theorem absentSlots_eq_zero {s : State} : absentSlots s = 0 ↔ s.kspresent = 0x3FF := by
  rw [absentSlots]
  bv_omega

section
variable {s : State}

theorem execKsLock_of_locked (hp : s.phase ≠ .rejected) (hl : s.kslock = true) : execKsLock s = .next s := by
  rw [execKsLock, if_neg hp, if_pos hl]

theorem execKsLock_of_absent (hp : s.phase ≠ .rejected) (hl : s.kslock = false) (ha : absentSlots s ≠ 0) :
    execKsLock s = .next (takeError .incompleteKeyStore (absentSlots s) s) := by
  rw [execKsLock, if_neg hp, hl, if_neg Bool.false_ne_true, if_pos ha, raise]

theorem execKsLock_of_complete (hp : s.phase ≠ .rejected) (hl : s.kslock = false) (ha : absentSlots s = 0) :
    execKsLock s = .next { s with kslock := true } := by
  rw [execKsLock, if_neg hp, hl, if_neg Bool.false_ne_true, if_neg (not_not.mpr ha)]

end

/-! ## `CLEAR` (R240) -/

theorem exec_clear (s : State) : exec .clear s = .next (clearInstance s) := rfl

theorem bytesOf_zero (w n : Nat) : bytesOf n (0 : BitVec w) = List.replicate n 0 := by
  simp [bytesOf, List.map_const']

theorem readA_clearInstance (i : Fin 4) (s : State) : readA i (clearInstance s) = 0 := by
  fin_cases i <;> rfl

/-- `CLEAR` zeroes every data register, whatever its width. -/
theorem readData_clearInstance (d : DataReg) (s : State) :
    readData d (clearInstance s) = List.replicate d.bytes 0 := by
  cases d <;> exact bytesOf_zero _ _

end Sys2Proof.Laws.Management

open Sys2Proof Sys2Proof.Machine Sys2Proof.Laws.CipherEngine Sys2Proof.Laws.PhaseTable Sys2Proof.Laws.Management

/-- Settles O17: the word is `NOP`'s opcode with key count 0, and `NOP`'s meaning looks at no phase. -/
theorem nopChangesNothing : Obligations.NopChangesNothing := by
  unfold Obligations.NopChangesNothing
  exact ⟨decode_opcode_keyCount (i := .nop) (by decide), fun _ => rfl⟩

/-- Settles O18: one rule for each branch of `KS_LOCK`; the absent slots are none exactly when `KSPRESENT` is full. -/
theorem ksLockFollowsItsRule : Obligations.KsLockFollowsItsRule := by
  unfold Obligations.KsLockFollowsItsRule
  refine ⟨decode_opcode_keyCount (i := .ksLock) (by decide), fun s hp => ?_⟩
  simp only [Raises, exec_ksLock]
  refine ⟨execKsLock_of_locked hp, fun hl hk => ?_, fun hl hk => ?_⟩
  · rw [← absentSlots_eq_mask]
    exact execKsLock_of_absent hp hl (mt absentSlots_eq_zero.mp hk)
  · exact execKsLock_of_complete hp hl (absentSlots_eq_zero.mpr hk)

/-- Settles O19: `CLEAR` answers `clearInstance`, whose fields stand in its own lemmas; every other command ends in
`Rejected` at its first test. -/
theorem clearStartsAFreshInstance : Obligations.ClearStartsAFreshInstance := by
  unfold Obligations.ClearStartsAFreshInstance
  refine ⟨decode_opcode_keyCount (i := .clear) (by decide), fun s => ⟨clearInstance s, exec_clear s, ?_⟩,
    fun _ _ => exec_of_rejected⟩
  refine ⟨fun i => readA_clearInstance i s, clearInstance_contbase s, fun d => readData_clearInstance d s,
    clearInstance_valid s, fun x => ?_, clearInstance_err s, clearInstance_errinfo s, clearInstance_phase s,
    clearInstance_ks s, clearInstance_kspresent s, clearInstance_kslock s, clearInstance_mem s,
    clearInstance_params s, clearInstance_inbox s, clearInstance_reply s⟩
  rw [clearInstance_tbl]
  rfl

end

section
/-! Errors are precise (spec/60_exceptions.md R258, R260): what the error mechanism leaves, and, command by command and
transaction by transaction, that an answer in `Rejected` is the error mechanism's on the state before it. -/

namespace Sys2Proof.Laws.Exceptions

open Sys2Proof Sys2Proof.Machine Sys2Proof.Laws.SignatureEngine Sys2Proof.Laws.LoadSave Sys2Proof.Laws.PhaseTable

/-! ## The error mechanism (R258) -/

/-- Taking an error zeroes every data register, whatever its width. -/
theorem readData_takeError (d : DataReg) (e : EngineError) (w : Word) (s : State) :
    readData d (takeError e w s) = List.replicate d.bytes 0 := by
  cases d <;> exact Management.bytesOf_zero _ _

theorem readA_takeError (i : Fin 4) (e : EngineError) (w : Word) (s : State) :
    readA i (takeError e w s) = readA i s := by
  fin_cases i <;> rfl

theorem tbl_get_takeError (e : EngineError) (w : Word) (s : State) (x : Nat) : (takeError e w s).tbl.get x = 0 := by
  rw [takeError_tbl]
  rfl

/-! ## Precise answers (R260) -/

/-- An answer that goes on in `Rejected` is the error mechanism's on `s`. -/
def Precise (s : State) (r : Result) : Prop := ∀ t, r = .next t → t.phase = .rejected → ∃ e w, t = takeError e w s

/-- The same of a transaction, but for the value that it returns to the host. -/
def PreciseUpToReply (s : State) (r : Result) : Prop :=
  ∀ t, r = .next t → t.phase = .rejected → ∃ e w, t = { takeError e w s with reply := t.reply }

section
variable {s : State} {a b : Result}

theorem Precise.next {t : State} (h : t.phase ≠ .rejected) : Precise s (.next t) := by
  rintro _ ⟨⟩ hr
  exact absurd hr h

theorem Precise.raise {e : EngineError} {w : Word} : Precise s (raise e w s) := by
  rintro t ⟨⟩ -
  exact ⟨e, w, rfl⟩

theorem Precise.refused {r : Refusal} : Precise s (.refused r) := nofun

theorem Precise.ite {c : Prop} [Decidable c] (ha : Precise s a) (hb : Precise s b) :
    Precise s (if c then a else b) := by
  split
  case isTrue => exact ha
  case isFalse => exact hb

/-- Outside `Rejected` the first test of every command and write (R259 step 1) fails. -/
theorem Precise.unlessRejected (hp : s.phase ≠ .rejected) (h : Precise s a) :
    Precise s (if s.phase = .rejected then .next s else a) := by
  rwa [if_neg hp]

theorem Precise.upToReply (h : Precise s a) : PreciseUpToReply s a := by
  intro t ht hr
  obtain ⟨e, w, rfl⟩ := h t ht hr
  exact ⟨e, w, rfl⟩

end

/-! ## What the commands share -/

section
variable {names : BitVec 12} {body : State → Result} {s : State}

theorem afterNeed_precise (hp : s.phase ≠ .rejected) (h : Precise s (body s)) : Precise s (afterNeed names body s) :=
  .unlessRejected hp (.ite .raise h)

theorem afterCount_precise (h : Precise s (body s)) : Precise s (afterCount body s) := .ite .raise h

theorem gateAt_precise {p : Phase} (hp : s.phase ≠ .rejected) (h : Precise s (body s)) :
    Precise s (gateAt p names body s) := .unlessRejected hp (.ite .raise (.ite .raise h))

theorem cipherBuffer_precise {f : CipherKey → Block → Bytes → Bytes} {kn : Nat} (hp : s.phase ≠ .rejected) :
    Precise s (cipherBuffer f kn s) := by
  intro t ht hr
  rcases cipherBuffer_cases ht with ⟨hrej, -⟩ | ⟨-, e, w, hraised, -⟩ | ⟨-, k, -, -, -, -, rfl⟩
  · exact absurd hrej hp
  · exact ⟨e, w, hraised⟩
  · exact absurd hr hp

theorem signBuffer_precise {lenOk : Nat → Prop} [DecidablePred lenOk] {f : KeyStore → Bytes → Block}
    (hp : s.phase ≠ .rejected) : Precise s (signBuffer lenOk f s) := .ite .raise (.ite .raise (.next hp))

theorem signEveryBlock_precise (hp : s.phase ≠ .rejected) : Precise s (signEveryBlock s) := by
  unfold signEveryBlock
  refine .ite .raise ?_
  split
  case h_1 => exact .raise
  case h_2 => exact .next hp

theorem cipherContent_precise {f : CipherKey → Block → Bytes → Bytes} {done : State → State}
    (h : ∀ m, (done { s with mem := m }).phase ≠ .rejected) : Precise s (cipherContent f done s) := by
  unfold cipherContent
  split
  case h_1 => exact .raise
  case h_2 m _ => exact .next (h m)

theorem loadTable_precise {budget : Nat} : Precise s (loadTable budget s) := by
  intro t ht hr
  rcases loadTable_cases ht with hraised | ⟨-, rfl⟩
  · exact hraised
  · cases hr

theorem verifyBlocks_precise : Precise s (verifyBlocks s) := by
  unfold verifyBlocks
  refine .ite .raise ?_
  split
  case h_1 => exact .raise
  case h_2 => exact .next nofun

end

/-! ## The commands -/

/-- Every command is its checks, each of which raises on the state before it, and then writes that do not lead to
`Rejected`. -/
theorem exec_precise (i : Instr) {s : State} (hp : s.phase ≠ .rejected) : Precise s (exec i s) := by
  cases i with
  | nop => exact .next hp
  | ksLock => exact .unlessRejected hp (.ite (.next hp) (.ite .raise (.next hp)))
  | clear => exact .next nofun
  | cbcEnc kn => exact cipherBuffer_precise hp
  | cbcDec kn => exact cipherBuffer_precise hp
  | xorBuf => exact .unlessRejected hp (.ite .raise (.ite .raise (.ite .raise (.next hp))))
  | fold8 => exact .unlessRejected hp (.ite .raise (.ite .raise (.ite .raise (.next hp))))
  | deriveKek => exact .unlessRejected hp (.ite .raise (.next hp))
  | unwrapKeys => exact .unlessRejected hp (.ite .raise (.next hp))
  | wrapKeys => exact .unlessRejected hp (.ite .raise (.next hp))
  | mac3 =>
    rw [exec_mac3]
    exact afterNeed_precise hp (signBuffer_precise hp)
  | foldSig =>
    rw [exec_foldSig]
    exact afterNeed_precise hp (signBuffer_precise hp)
  | sigHeader =>
    rw [exec_sigHeader]
    exact afterNeed_precise hp (.next hp)
  | sigTable =>
    rw [exec_sigTable]
    exact afterNeed_precise hp (afterCount_precise (.next hp))
  | sigRoot =>
    rw [exec_sigRoot]
    exact afterNeed_precise hp (afterCount_precise (.next hp))
  | sigBlock =>
    rw [exec_sigBlock]
    exact afterNeed_precise hp (afterCount_precise (.ite .raise (.ite .raise (.ite .raise (.next hp)))))
  | signBlocks =>
    rw [exec_signBlocks]
    exact afterNeed_precise hp (afterCount_precise (signEveryBlock_precise hp))
  | ldHeader =>
    rw [exec_ldHeader]
    exact gateAt_precise hp (.ite .raise (.ite .raise (.next nofun)))
  | ldKeys =>
    rw [exec_ldKeys]
    exact gateAt_precise hp (.next nofun)
  | ldTable =>
    rw [exec_ldTable]
    exact gateAt_precise hp (.ite .raise (.ite .raise loadTable_precise))
  | ldContent =>
    rw [exec_ldContent]
    exact gateAt_precise hp (cipherContent_precise fun _ => nofun)
  | ldVerify =>
    rw [exec_ldVerify]
    exact gateAt_precise hp (afterCount_precise verifyBlocks_precise)
  | svSeal =>
    rw [exec_svSeal]
    exact afterNeed_precise hp (afterCount_precise (.next (by rwa [sealed_phase])))
  | tableDec => exact .unlessRejected hp (.ite .raise (.ite .raise (.ite .raise (.next hp))))
  | tableEnc => exact .unlessRejected hp (.ite .raise (.ite .raise (.next hp)))
  | contentDec =>
    rw [exec_contentDec]
    exact afterNeed_precise hp (cipherContent_precise fun _ => hp)
  | contentEnc =>
    rw [exec_contentEnc]
    exact afterNeed_precise hp (cipherContent_precise fun _ => hp)

/-! ## The host transactions -/

section
variable {s : State}

theorem hostCommand_precise (w : Word) (hp : s.phase ≠ .rejected) : Precise s (hostCommand w s) := by
  rcases hostCommand_cases w s with ⟨hr, -⟩ | ⟨hr, -⟩ | ⟨-, -, hanswer⟩ | ⟨-, i, -, hanswer⟩
  · exact absurd hr hp
  · exact absurd hr hp
  · rw [hanswer]
    exact .raise
  · rw [hanswer]
    exact exec_precise i hp

theorem hostWriteKey_precise {k : Slot} {v : Bytes} (hp : s.phase ≠ .rejected) : Precise s (hostWriteKey k v s) :=
  .unlessRejected hp (.ite .raise (.next hp))

theorem hostWriteReg_precise {r : Reg} {v : Bytes} (hp : s.phase ≠ .rejected) : Precise s (hostWriteReg r v s) := by
  cases r with
  | data d => exact .unlessRejected hp (.next (by rwa [writeData_phase]))
  | slot k => exact hostWriteKey_precise hp
  | cmd => exact .refused
  | contbase => exact .refused
  | a i => exact .refused
  | _ => exact .next hp

theorem hostSetReg_precise {r : Reg} {v : Nat} (hp : s.phase ≠ .rejected) : Precise s (hostSetReg r v s) := by
  cases r with
  | cmd => exact hostCommand_precise _ hp
  | a i => exact .unlessRejected hp (.next (by rwa [writeA_phase]))
  | contbase => exact .unlessRejected hp (.next hp)
  | data d =>
    cases d with
    | sig => exact .next hp
    | _ => exact .refused
  | slot k => exact .refused
  | _ => exact .next hp

theorem hostReadReg_precise {r : Reg} (hp : s.phase ≠ .rejected) : Precise s (hostReadReg r s) := by
  unfold hostReadReg
  split
  case h_1 => exact .next hp
  case h_2 => exact .refused

/-- A bounded read that raises also returns its zero bytes (R236, R238). -/
theorem hostReadRange_precise {m : Memory} {size addr n : Nat} (hp : s.phase ≠ .rejected) :
    PreciseUpToReply s (hostReadRange m size addr n s) := by
  rcases hostReadRange_cases m size addr n s with ⟨-, hanswer⟩ | ⟨-, hr, -⟩ | ⟨-, -, hanswer⟩
  · rw [hanswer]
    exact Precise.upToReply (.next hp)
  · exact absurd hr hp
  · rw [hanswer]
    rintro t ⟨⟩ -
    exact ⟨.accessFault, BitVec.ofNat 32 addr, rfl⟩

theorem perform_precise (x : Transaction) (hp : s.phase ≠ .rejected) : PreciseUpToReply s (perform x s) := by
  cases x with
  | command w => exact (hostCommand_precise w hp).upToReply
  | writeKey n v =>
    simp only [perform]
    split
    case h_1 => exact (hostWriteKey_precise hp).upToReply
    case h_2 => exact Precise.refused.upToReply
  | writeReg n v =>
    simp only [perform]
    split
    case h_1 => exact (hostWriteReg_precise hp).upToReply
    case h_2 => exact Precise.refused.upToReply
  | setReg n v =>
    simp only [perform]
    split
    case h_1 => exact (hostSetReg_precise hp).upToReply
    case h_2 => exact Precise.refused.upToReply
  | readReg n =>
    simp only [perform]
    split
    case h_1 => exact (hostReadReg_precise hp).upToReply
    case h_2 => exact Precise.refused.upToReply
  | writeTbl off v => exact Precise.upToReply (.unlessRejected hp (.ite .raise (.next hp)))
  | readTbl off n => exact hostReadRange_precise hp
  | writeMem addr v => exact Precise.upToReply (.unlessRejected hp (.ite .raise (.next hp)))
  | readMem addr n => exact hostReadRange_precise hp
  | reset contents => exact Precise.upToReply (.next nofun)

end

end Sys2Proof.Laws.Exceptions

open Sys2Proof Sys2Proof.Machine Sys2Proof.Laws.PhaseTable Sys2Proof.Laws.Exceptions

/-- Settles O13: the fields of the error mechanism's state are its own lemmas; that nothing else is written is one case
split over the commands and one over the transactions. -/
theorem errorsArePrecise : Obligations.ErrorsArePrecise := by
  unfold Obligations.ErrorsArePrecise
  refine ⟨rfl, fun e w s => ?_, fun i s t ht hp => exec_precise i hp t ht, fun s t x rest hinbox ht hp => ?_⟩
  · exact ⟨takeError_err e w s, takeError_errinfo e w s, takeError_phase e w s, takeError_valid e w s,
      fun d => readData_takeError d e w s, tbl_get_takeError e w s, fun i => readA_takeError i e w s,
      takeError_contbase e w s, takeError_mem e w s, takeError_ks e w s, takeError_kspresent e w s,
      takeError_kslock e w s⟩
  · exact perform_precise (s := s.taking rest) x hp t (perform_of_step hinbox ht)

end

section
/-! Decoding and encoding agree (spec/30_encoding.md R90, R95, R99): both say that a word has `Z = 0`, the opcode and
the key count of its command. -/

namespace Sys2Proof.Laws.Encoding

open Sys2Proof Sys2Proof.Laws.Decoder

/-- The key count is the only field that can be too wide for its place in the word (R92). -/
theorem wf_iff_keyCountField_lt {i : Instr} : i.wf = true ↔ keyCountField i < 8 := by
  cases i with
  | cbcEnc kn => exact decide_eq_true_iff
  | cbcDec kn => exact decide_eq_true_iff
  | _ => exact iff_of_true rfl (by decide)

/-- A word is the encoding of `i` exactly when its fields are those of `i`, as long as the key count fits. -/
theorem encode_eq_iff {i : Instr} {w : Word} (hkn : keyCountField i < 8) :
    encode i = w ↔ wordZ w = 0 ∧ wordOp w = opcode i ∧ wordKn w = keyCountField i := by
  have hop := opcode_lt i
  have hw := w.isLt
  rw [encode, ← BitVec.toNat_inj, BitVec.toNat_ofNat]
  simp only [wordZ, wordOp, wordKn]
  omega

end Sys2Proof.Laws.Encoding

open Sys2Proof Sys2Proof.Laws.Decoder Sys2Proof.Laws.Encoding

/-- Settles O3: both sides name the three fields of the word, and a key count read from a word is below 8. -/
theorem decodeAndEncodeAgree : Obligations.DecodeAndEncodeAgree := by
  unfold Obligations.DecodeAndEncodeAgree
  intro w i
  rw [decode_eq_ok_iff, wf_iff_keyCountField_lt]
  constructor
  · rintro ⟨hz, hop, hcount⟩
    have hkn : keyCountField i < 8 := hcount ▸ Nat.mod_lt _ (by decide)
    exact ⟨hkn, (encode_eq_iff hkn).mpr ⟨hz, hop, hcount⟩⟩
  · rintro ⟨hkn, hword⟩
    exact (encode_eq_iff hkn).mp hword

/-- Settles O4: the words are fixed, so the decoder is evaluated on each. -/
theorem writtenOutWordsDecode : Obligations.WrittenOutWordsDecode := by
  unfold Obligations.WrittenOutWordsDecode
  decide

end

section
/-! `TABLE_ENC` (spec/45_table_content_pipeline.md R217): the `need` line, the count check, and the store of the
encrypted table. -/

namespace Sys2Proof.Laws.TableEncryption

open Sys2Proof Sys2Proof.Machine Sys2Proof.Laws.SignatureEngine Sys2Proof.Laws.LoadSave

/-- `TBL` with its first `TableBytes` bytes encrypted under `KBIT`, as `TABLE_ENC` and `SV_SEAL` leave it (R198,
R217). -/
def encryptedTable (s : State) : Memory :=
  s.tbl.write 0 (cbcEnc (twoKey s.kbit) s.ks.tableIv (s.tbl.read 0 (tableBytes s.tbl)))

theorem exec_tableEnc (s : State) :
    exec .tableEnc s = afterNeed (vKbit ||| vTbl) (afterCount fun s => .next { s with tbl := encryptedTable s }) s :=
  rfl

end Sys2Proof.Laws.TableEncryption

open Sys2Proof Sys2Proof.Machine Sys2Proof.Laws.Cipher Sys2Proof.Laws.CipherEngine Sys2Proof.Laws.SignatureEngine
open Sys2Proof.Laws.LoadSave Sys2Proof.Laws.TableEncryption

/-- Settles O41: the `need` line, the count check, and the store; the example is that of `TABLE_DEC` inverted. -/
theorem tableEncFollowsItsRule : Obligations.TableEncFollowsItsRule := by
  unfold Obligations.TableEncFollowsItsRule
  obtain ⟨-, hexample, -⟩ := tableDecFollowsItsRule
  refine ⟨decode_opcode_keyCount (i := .tableEnc) (by decide), ?_, ?_⟩
  · rw [← hexample]
    exact cbcEnc_cbcDec _ _ (by rw [testTableCipher, bytesOf_length])
  rintro s nb hp rfl
  simp only [Raises, exec_tableEnc]
  refine ⟨afterNeed_of_missing hp, afterNeed_afterCount_of_lt, fun hr hc ht => ?_⟩
  rw [afterNeed_afterCount_of_le hr hc]
  exact ⟨_, rfl, stores_write ht (cbcEnc_table_length _ _ _)⟩

end

section
/-! Reading a register or a key-store slot after a write (spec/10_state.md R22, R27, R31): the bytes written from
the one written, what was there from every other. And a mask with one bit set (R28, R32), bit by bit. -/

namespace Sys2Proof.Laws.Registers

open Sys2Proof Sys2Proof.Machine

/-! ## Byte strings of a fixed length -/

/-- A string reads back as the bytes it was made of. -/
theorem bytesOf_ofBytes_of_length {w n : Nat} {v : Bytes} (hw : w = 8 * n) (hv : v.length = n) :
    bytesOf n (ofBytes w v) = v := by
  subst hv
  exact bytesOf_ofBytes v hw

/-- Only the zero string has nothing but zero bytes. -/
theorem bytesOf_eq_replicate_iff {w n : Nat} (hw : w = 8 * n) {x : BitVec w} :
    bytesOf n x = List.replicate n 0 ↔ x = 0 := by
  rw [← Management.bytesOf_zero w n]
  exact (Cipher.bytesOf_injective hw).eq_iff

/-! ## Masks with one bit -/

theorem getLsbD_ofNat_two_pow {w n : Nat} (hn : n < w) (m : Nat) :
    (BitVec.ofNat w (2 ^ n)).getLsbD m = decide (m = n) := by
  rw [BitVec.getLsbD_ofNat, Nat.testBit_two_pow]
  simp only [eq_comm (a := n), ← Bool.decide_and, decide_eq_decide]
  omega

/-! ## Numbers of registers and slots (R31, R35) -/

theorem dataReg_index_lt (d : DataReg) : d.index < 11 := by
  cases d <;> decide

theorem slot_index_lt (k : Slot) : k.index < 10 := by
  cases k <;> decide

theorem slot_ofIndex_index (k : Slot) : Slot.ofIndex k.index = some k := by
  cases k <;> rfl

theorem reg_ofNumber_number (r : Reg) : Reg.ofNumber r.number = some r := by
  cases r with
  | a i => fin_cases i <;> rfl
  | data d => cases d <;> rfl
  | slot k => cases k <;> rfl
  | _ => rfl

theorem slot_index_injective : Function.Injective Slot.index := fun k k' h =>
  Option.some_injective _ (by rw [← slot_ofIndex_index, h, slot_ofIndex_index])

theorem dataReg_index_injective : Function.Injective DataReg.index := by
  intro d d' h
  have hnumber : (Reg.data d).number = (Reg.data d').number := congrArg (0x10 + ·) h
  have hreg := reg_ofNumber_number (.data d)
  rw [hnumber, reg_ofNumber_number] at hreg
  cases hreg
  rfl

/-! ## Data registers -/

/-- `NAME <- v` for the data register `d` (R27): the host's write, and the write of `SIG`, which no host has. -/
def putData (d : DataReg) (v : Bytes) (s : State) : State :=
  match d with
  | .sig => s.putSig (ofBytes 64 v)
  | _ => writeData d v s

section
variable {d d' : DataReg} {v : Bytes} {s : State}

/-- A host write of a data register is `NAME <- v`, or nothing where the register is `SIG` (R233). -/
theorem writeData_eq (d : DataReg) (v : Bytes) (s : State) :
    writeData d v s = if d = .sig then s else putData d v s := by
  cases d <;> rfl

/-- A write of a data register leaves everything but the eleven registers and `VALID`. -/
theorem putData_frame (d : DataReg) (v : Bytes) (s : State) :
    putData d v s = { s with
      hdr := (putData d v s).hdr, hsig := (putData d v s).hsig, kbit := (putData d v s).kbit,
      kc := (putData d v s).kc, kek := (putData d v s).kek, tsig := (putData d v s).tsig,
      rsig := (putData d v s).rsig, sig := (putData d v s).sig, dig := (putData d v s).dig,
      ckey := (putData d v s).ckey, civ := (putData d v s).civ, valid := (putData d v s).valid } := by
  cases d <;> rfl

@[simp] theorem putData_phase : (putData d v s).phase = s.phase := by rw [putData_frame]
@[simp] theorem putData_err : (putData d v s).err = s.err := by rw [putData_frame]
@[simp] theorem putData_errinfo : (putData d v s).errinfo = s.errinfo := by rw [putData_frame]
@[simp] theorem putData_ks : (putData d v s).ks = s.ks := by rw [putData_frame]
@[simp] theorem putData_kspresent : (putData d v s).kspresent = s.kspresent := by rw [putData_frame]
@[simp] theorem putData_kslock : (putData d v s).kslock = s.kslock := by rw [putData_frame]
@[simp] theorem putData_tbl : (putData d v s).tbl = s.tbl := by rw [putData_frame]
@[simp] theorem putData_mem : (putData d v s).mem = s.mem := by rw [putData_frame]
@[simp] theorem putData_params : (putData d v s).params = s.params := by rw [putData_frame]
@[simp] theorem putData_inbox : (putData d v s).inbox = s.inbox := by rw [putData_frame]
@[simp] theorem putData_reply : (putData d v s).reply = s.reply := by rw [putData_frame]

@[simp] theorem putData_valid : (putData d v s).valid = s.valid ||| BitVec.ofNat 12 (2 ^ d.index) := by
  cases d <;> rfl

theorem readData_putData_same (hv : v.length = d.bytes) : readData d (putData d v s) = v := by
  cases d <;> exact bytesOf_ofBytes_of_length rfl hv

theorem readData_putData_of_ne (h : d' ≠ d) : readData d' (putData d v s) = readData d' s := by
  cases d <;> cases d' <;> first | exact absurd rfl h | rfl

/-- The valid bits after a write: the written register's is set, every other stays. -/
theorem getLsbD_valid_putData (n : Nat) :
    (putData d v s).valid.getLsbD n = (s.valid.getLsbD n || decide (n = d.index)) := by
  rw [putData_valid, BitVec.getLsbD_or, getLsbD_ofNat_two_pow (by have := dataReg_index_lt d; omega)]

end

/-! ## Operand registers -/

/-- A write of an operand register leaves everything but the four of them (R22). -/
theorem writeA_frame (i : Fin 4) (v : Word) (s : State) :
    writeA i v s = { s with
      a0 := (writeA i v s).a0, a1 := (writeA i v s).a1, a2 := (writeA i v s).a2, a3 := (writeA i v s).a3 } := by
  fin_cases i <;> rfl

theorem readA_writeA_same (i : Fin 4) (v : Word) (s : State) : readA i (writeA i v s) = v := by
  fin_cases i <;> rfl

theorem readA_writeA_of_ne {i j : Fin 4} (h : j ≠ i) (v : Word) (s : State) : readA j (writeA i v s) = readA j s := by
  fin_cases i <;> fin_cases j <;> first | exact absurd rfl h | rfl

/-! ## Key-store slots -/

section
variable {k k' : Slot} {v : Bytes} {ks : KeyStore}

theorem slotBytes_writeSlot_same (hv : v.length = k.bytes) : slotBytes k (writeSlot k v ks) = v := by
  cases k <;> exact bytesOf_ofBytes_of_length rfl hv

theorem slotBytes_writeSlot_of_ne (h : k' ≠ k) : slotBytes k' (writeSlot k v ks) = slotBytes k' ks := by
  cases k <;> cases k' <;> first | exact absurd rfl h | rfl

theorem getLsbD_or_slotBit (p : BitVec 10) (k : Slot) (n : Nat) :
    (p ||| slotBit k).getLsbD n = (p.getLsbD n || decide (n = k.index)) := by
  rw [BitVec.getLsbD_or, slotBit, getLsbD_ofNat_two_pow (slot_index_lt k)]

end

end Sys2Proof.Laws.Registers

end

section
/-! What a step can write. `Write` lists the single writes of the engine, each with the checks under which it is made;
every command and every host transaction is a chain of them. The invariants of the state (spec/10_state.md R26, R27,
R32; spec/20_memory.md section 2) then need one look at each single write, and no second walk through the commands. -/

namespace Sys2Proof.Laws.StepWrites

open Sys2Proof Sys2Proof.Machine Sys2Proof.Laws.Registers Sys2Proof.Laws.CipherEngine Sys2Proof.Laws.KeyPipeline
open Sys2Proof.Laws.SignatureEngine Sys2Proof.Laws.LoadSave Sys2Proof.Laws.TableContent Sys2Proof.Laws.TableEncryption

/-! ## The single writes -/

/-- One write of the engine, under the checks that come before it. A store into `TBL` makes it valid (R28, R235). -/
inductive Write (s : State) : State → Prop
  | data (hp : s.phase ≠ .rejected) (d : DataReg) (v : Bytes) : Write s (putData d v s)
  | operand (hp : s.phase ≠ .rejected) (i : Fin 4) (v : Word) : Write s (writeA i v s)
  | contbase (hp : s.phase ≠ .rejected) (v : Word) : Write s { s with contbase := v }
  | mem (hp : s.phase ≠ .rejected) {a : Nat} {v : Bytes} (hfits : Fits s a v.length) :
      Write s { s with mem := s.mem.write a v }
  | tbl (hp : s.phase ≠ .rejected) {a : Nat} {v : Bytes} (hfits : a + v.length ≤ 4104) :
      Write s { s with tbl := s.tbl.write a v, valid := s.valid ||| vTbl }
  | slot (hp : s.phase ≠ .rejected) (hl : s.kslock = false) (k : Slot) (v : Bytes) :
      Write s { s with ks := writeSlot k v s.ks, kspresent := s.kspresent ||| slotBit k }
  | lock (hp : s.phase ≠ .rejected) (hk : s.kspresent = 0x3FF) : Write s { s with kslock := true }
  | phase (hp : s.phase ≠ .rejected) {p : Phase} (hp' : p ≠ .rejected) : Write s { s with phase := p }
  | error (hp : s.phase ≠ .rejected) {e : EngineError} (he : e ≠ .malformedEntry) (w : Word) :
      Write s (takeError e w s)
  | clear : Write s (clearInstance s)

/-- Some writes, one after the other. -/
abbrev Writes : State → State → Prop := Relation.ReflTransGen Write

/-- An answer goes on, and the state it leaves comes from `s` by writes. -/
def Answers (s : State) (r : Result) : Prop := ∃ t, r = .next t ∧ Writes s t

/-- What every single write keeps, writes keep. -/
theorem Writes.keeps {P : State → Prop} (hwrite : ∀ s t, Write s t → P s → P t) {s t : State} (h : Writes s t)
    (hs : P s) : P t := by
  induction h with
  | refl => exact hs
  | tail _ hlast ih => exact hwrite _ _ hlast ih

section
variable {s : State}

theorem Write.putKbit (hp : s.phase ≠ .rejected) (v : BitVec 128) : Write s (s.putKbit v) :=
  ofBytes_bytesOf (n := 16) rfl v ▸ Write.data hp .kbit (bytesOf 16 v)

theorem Write.putKc (hp : s.phase ≠ .rejected) (v : BitVec 128) : Write s (s.putKc v) :=
  ofBytes_bytesOf (n := 16) rfl v ▸ Write.data hp .kc (bytesOf 16 v)

theorem Write.putKek (hp : s.phase ≠ .rejected) (v : BitVec 128) : Write s (s.putKek v) :=
  ofBytes_bytesOf (n := 16) rfl v ▸ Write.data hp .kek (bytesOf 16 v)

theorem Write.putHsig (hp : s.phase ≠ .rejected) (v : Block) : Write s (s.putHsig v) :=
  ofBytes_bytesOf (n := 8) rfl v ▸ Write.data hp .hsig (bytesOf 8 v)

theorem Write.putTsig (hp : s.phase ≠ .rejected) (v : Block) : Write s (s.putTsig v) :=
  ofBytes_bytesOf (n := 8) rfl v ▸ Write.data hp .tsig (bytesOf 8 v)

theorem Write.putRsig (hp : s.phase ≠ .rejected) (v : Block) : Write s (s.putRsig v) :=
  ofBytes_bytesOf (n := 8) rfl v ▸ Write.data hp .rsig (bytesOf 8 v)

theorem Write.putSig (hp : s.phase ≠ .rejected) (v : Block) : Write s (s.putSig v) :=
  ofBytes_bytesOf (n := 8) rfl v ▸ Write.data hp .sig (bytesOf 8 v)

theorem Write.putDig (hp : s.phase ≠ .rejected) (v : Block) : Write s (s.putDig v) :=
  ofBytes_bytesOf (n := 8) rfl v ▸ Write.data hp .dig (bytesOf 8 v)

end

/-! ## Answers -/

section
variable {s t u : State} {a b : Result} {c : Prop} [Decidable c]

theorem Answers.next (h : Writes s t) : Answers s (.next t) := ⟨t, rfl, h⟩

theorem Answers.keep : Answers s (.next s) := .next .refl

theorem Answers.write (h : Write s t) : Answers s (.next t) := .next (.single h)

theorem Answers.raise (hp : s.phase ≠ .rejected) {e : EngineError} (he : e ≠ .malformedEntry) {w : Word} :
    Answers s (raise e w s) := .write (.error hp he w)

theorem Answers.ite (ha : c → Answers s a) (hb : ¬ c → Answers s b) : Answers s (if c then a else b) := by
  split
  case isTrue h => exact ha h
  case isFalse h => exact hb h

/-- A check of a command: it raises, or what comes after it may use that it has passed (R259). -/
theorem Answers.check (hp : s.phase ≠ .rejected) {e : EngineError} {w : Word} (h : ¬ c → Answers s b)
    (he : e ≠ .malformedEntry := by decide) : Answers s (if c then Machine.raise e w s else b) :=
  .ite (fun _ => .raise hp he) h

/-- The first test of every command and write (R259 step 1). -/
theorem Answers.unlessRejected (h : s.phase ≠ .rejected → Answers s a) :
    Answers s (if s.phase = .rejected then .next s else a) := .ite (fun _ => .keep) h

/-- The `need` line of a command (R257), after its first test. -/
theorem Answers.need {names : BitVec 12} {ks : Bool} (hp : s.phase ≠ .rejected) (h : Ready names ks s → Answers s a) :
    Answers s (if missing names ks s ≠ 0 then Machine.raise .operandInvalid (missing names ks s) s else a) :=
  .check hp fun hm => h ⟨hp, missing_eq_zero_iff.mp (not_not.mp hm)⟩

end

/-! ## What the commands share -/

section
variable {names : BitVec 12} {body : State → Result} {s : State} {f : CipherKey → Block → Bytes → Bytes}

theorem fits_of_inRange {a n : Nat} (h : ¬ inRange a n s.params.memSize.val = false) : Fits s a n :=
  inRange_eq_true.mp (Bool.not_eq_false _ ▸ h)

theorem fits_content (h : ¬ contentInRange s = false) : Fits s s.contbase.toNat (totalSize s.tbl) := fits_of_inRange h

theorem afterNeed_answers (h : Ready names true s → Answers s (body s)) : Answers s (afterNeed names body s) :=
  .unlessRejected fun hp => .need hp h

theorem afterCount_answers (hp : s.phase ≠ .rejected) (h : tCount s.tbl ≤ 256 → Answers s (body s)) :
    Answers s (afterCount body s) := .check hp fun hc => h (Nat.not_lt.mp hc)

theorem gateAt_answers {p : Phase} (h : Ready names true s → Answers s (body s)) :
    Answers s (gateAt p names body s) :=
  .unlessRejected fun hp => .check hp fun _ => .need hp h

/-- A store into `TBL` by a command that has found it valid. -/
theorem Write.tbl_of_ready {ks : Bool} {a : Nat} {v : Bytes} (hr : Ready names ks s) (hbit : names &&& vTbl = vTbl)
    (hfits : a + v.length ≤ 4104) : Write s { s with tbl := s.tbl.write a v } := by
  have hwrite := Write.tbl hr.1 hfits
  rwa [valid_or_of_ready hr hbit] at hwrite

/-- Stores into `TBL` one after the other, as `SIGN_BLOCKS` makes them (R176). -/
theorem writes_foldl_tbl {ks : Bool} {a : Nat → Nat} {g : Nat → Bytes} (hr : Ready names ks s)
    (hbit : names &&& vTbl = vTbl) (l : List Nat) (hfits : ∀ i ∈ l, a i + (g i).length ≤ 4104) (m : Memory) :
    Writes { s with tbl := m } { s with tbl := l.foldl (fun t i => t.write (a i) (g i)) m } := by
  induction l generalizing m with
  | nil => exact .refl
  | cons i l ih =>
    have hfirst : Write { s with tbl := m } { s with tbl := m.write (a i) (g i) } :=
      Write.tbl_of_ready (s := { s with tbl := m }) hr hbit (hfits i List.mem_cons_self)
    exact .head hfirst (ih (fun j hj => hfits j (List.mem_cons_of_mem i hj)) _)

/-- The walk of `ContentCipher` (R218) is a chain of stores into MEM. -/
theorem writes_foldl_cipherBlock {k : CipherKey} (hp : s.phase ≠ .rejected)
    (hlen : ∀ v : Bytes, v.length % 8 = 0 → (f k s.ks.contentIv v).length = v.length) (l : List Nat)
    (hl : ∀ i ∈ l, dSize s.tbl i % 8 = 0 ∧ Fits s (s.contbase.toNat + blockOffset s.tbl i) (dSize s.tbl i))
    (m : Memory) :
    Writes { s with mem := m } { s with mem := l.foldl (cipherBlock f k s) m } := by
  induction l generalizing m with
  | nil => exact .refl
  | cons i l ih =>
    obtain ⟨h8, hfits⟩ := hl i List.mem_cons_self
    have hfirst : Write { s with mem := m } { s with mem := cipherBlock f k s m i } :=
      Write.mem (s := { s with mem := m }) hp (by rwa [hlen _ (by simpa), Memory.read_length])
    exact .head hfirst (ih (fun j hj => hl j (List.mem_cons_of_mem i hj)) _)

/-- What the commands on the content write: MEM, and then what `done` does. -/
theorem cipherContent_answers {done : State → State} (hp : s.phase ≠ .rejected)
    (hlen : ∀ k iv l, l.length % 8 = 0 → (f k iv l).length = l.length)
    (hdone : ∀ m, Writes { s with mem := m } (done { s with mem := m })) : Answers s (cipherContent f done s) := by
  unfold cipherContent
  split
  case h_1 e herror =>
    refine .raise hp ?_
    rcases contentCipher_error herror with h | h | h | h <;> rw [h] <;> decide
  case h_2 m hok =>
    refine .next (.trans ?_ (hdone m))
    obtain ⟨-, hfits, ⟨-, rfl⟩ | ⟨-, h8, k, -, rfl⟩⟩ := contentCipher_ok hok
    · exact .refl
    · refine writes_foldl_cipherBlock hp (hlen k _) _ (fun i hi => ⟨h8 i hi, ?_⟩) s.mem
      have hend := blockOffset_add_size_le_total s.tbl (mem_encryptedBlocks.mp hi).1
      unfold Fits at hfits ⊢
      omega

end

/-! ## The commands -/

section
variable {f : CipherKey → Block → Bytes → Bytes} {s : State}

theorem cipherBuffer_answers {kn : Nat} (hlen : ∀ k iv l, l.length % 8 = 0 → (f k iv l).length = l.length) :
    Answers s (cipherBuffer f kn s) := by
  refine .unlessRejected fun hp => .check hp fun _ => ?_
  split
  case h_1 => exact .raise hp (by decide)
  case h_2 k _ =>
    refine .check hp fun h8 => .check hp fun _ => .check hp fun h1 => .write (.mem hp ?_)
    rw [hlen _ _ _ (by simpa using h8), Memory.read_length]
    exact fits_of_inRange h1

theorem execXorBuf_answers : Answers s (execXorBuf s) := by
  refine .unlessRejected fun hp => .check hp fun _ => .check hp fun _ => .check hp fun h3 => .write (.mem hp ?_)
  rw [xorBytes_length (by simp), Memory.read_length]
  exact fits_of_inRange h3

theorem execKsLock_answers : Answers s (execKsLock s) :=
  .unlessRejected fun hp => .ite (fun _ => .keep) fun _ => .check hp fun ha =>
    .write (.lock hp (Management.absentSlots_eq_zero.mp (not_not.mp ha)))

theorem signBuffer_answers {lenOk : Nat → Prop} [DecidablePred lenOk] {g : KeyStore → Bytes → Block}
    (hp : s.phase ≠ .rejected) : Answers s (signBuffer lenOk g s) :=
  .check hp fun _ => .check hp fun _ => .write (.putSig hp _)

theorem signEveryBlock_answers (hr : Ready vTbl true s) (hc : tCount s.tbl ≤ 256) : Answers s (signEveryBlock s) := by
  refine .check hr.1 fun _ => ?_
  split
  case h_1 => exact .raise hr.1 (by decide)
  case h_2 =>
    refine .next (writes_foldl_tbl hr (by decide) _ (fun i hi => ?_) s.tbl)
    have hlt : i < tCount s.tbl := List.mem_range.mp (List.mem_filter.mp hi).1
    rw [bytesOf_length]
    omega

theorem loadTable_answers {budget : Nat} (hp : s.phase ≠ .rejected) (hb : budget ≤ 4104) (h8 : budget % 8 = 0) :
    Answers s (loadTable budget s) := by
  refine .need hp fun hr => .check hp fun _ => .check hp fun _ => .check hp fun _ => .next ?_
  have htable : Write s { s with tbl := loadedTable s budget } :=
    Write.tbl_of_ready hr (by decide) (by rwa [decryptedTable_length h8, Nat.zero_add])
  exact .tail (.single htable) (.phase (by simpa using hp) (by decide))

theorem loadWithinBudget_answers (hp : s.phase ≠ .rejected) : Answers s (loadWithinBudget s) := by
  refine .check hp fun hrange => .check hp fun h8 => loadTable_answers hp ?_ ?_
  · obtain ⟨-, hhigh⟩ := not_not.mp hrange
    exact Int.toNat_le.mpr hhigh
  · omega

/-- Which errors `LD_VERIFY` finds in a block (R195). -/
theorem blockProblem_error {i : Nat} {e : EngineError × Word} (h : blockProblem s i = some e) :
    e.1 = .lengthError ∨ e.1 = .invalidContentSignature := by
  unfold blockProblem at h
  split at h
  · cases h
  · split at h
    · cases h
      exact .inl rfl
    · split at h
      · cases h
        exact .inr rfl
      · cases h

theorem verifyBlocks_answers (hp : s.phase ≠ .rejected) : Answers s (verifyBlocks s) := by
  refine .check hp fun _ => ?_
  split
  case h_1 e hfind =>
    obtain ⟨i, -, hi⟩ := List.exists_of_findSome?_eq_some hfind
    refine .raise hp ?_
    rcases blockProblem_error hi with h | h <;> rw [h] <;> decide
  case h_2 => exact .write (.phase hp (by decide))

theorem unwrapWithHeaderKek_answers (hp : s.phase ≠ .rejected) : Answers s (unwrapWithHeaderKek s) :=
  have hkeys : Writes s (((s.putKek (deriveKek s.ks s.hdr)).putKbit (unwrap16 (deriveKek s.ks s.hdr) s.kbit)).putKc
      (unwrap16 (deriveKek s.ks s.hdr) s.kc)) :=
    .tail (.tail (.single (.putKek hp _)) (.putKbit (by simpa using hp) _)) (.putKc (by simpa using hp) _)
  .next (hkeys.tail (.phase (by simpa using hp) (by decide)))

theorem mapWorkingKeys_answers {g : BitVec 128 → BitVec 128 → BitVec 128} : Answers s (mapWorkingKeys g s) :=
  .unlessRejected fun hp => .check hp fun _ => .next (.tail (.single (.putKbit hp _)) (.putKc (by simpa using hp) _))

theorem decryptTable_answers (hr : Ready (vKbit ||| vTbl) true s) : Answers s (decryptTable s) := by
  refine .check hr.1 fun hn => .check hr.1 fun h8 => .write (Write.tbl_of_ready hr (by decide) ?_)
  rw [decryptedTable_length (not_not.mp h8), Nat.zero_add]
  exact Nat.not_lt.mp hn

theorem length_cbcEnc_table_le (k : CipherKey) (iv : Block) {t : Memory} (hc : tCount t ≤ 256) :
    0 + (cbcEnc k iv (t.read 0 (tableBytes t))).length ≤ 4104 := by
  rw [cbcEnc_table_length, tableBytes, tableBytesOf, Config.block]
  omega

/-- The registers that `SV_SEAL` writes (R198), before its store into `TBL`. -/
def sealedRegisters (s : State) : State :=
  (((((s.putHsig (mac3 s.ks (bytesOf 32 s.hdr))).putTsig (sealTableSig s)).putRsig
    (rootSig s.ks (mac3 s.ks (bytesOf 32 s.hdr)) (sealTableSig s) s.tbl)).putKek (deriveKek s.ks s.hdr)).putKbit
    (wrap16 (deriveKek s.ks s.hdr) s.kbit)).putKc (wrap16 (deriveKek s.ks s.hdr) s.kc)

theorem sealed_eq (s : State) :
    sealed s = { sealedRegisters s with tbl := encryptedTable s } := rfl

theorem sealedRegisters_tbl (s : State) : (sealedRegisters s).tbl = s.tbl := by simp [sealedRegisters]

/-- A register that is valid before these writes is valid after them, and nothing else that `need` looks at changes. -/
theorem sealedRegisters_ready {names : BitVec 12} {ks : Bool} (hr : Ready names ks s) :
    Ready names ks (sealedRegisters s) := by
  obtain ⟨hp, hvalid, hlock⟩ := hr
  have hkept : (sealedRegisters s).valid &&& s.valid = s.valid := by
    simp only [sealedRegisters, putKc_valid, putKbit_valid, putKek_valid, putRsig_valid, putTsig_valid, putHsig_valid]
    grind
  refine ⟨by simpa [sealedRegisters] using hp, ?_, by simpa [sealedRegisters] using hlock⟩
  rw [← hvalid, ← BitVec.and_assoc, hkept]

theorem writes_sealedRegisters (hp : s.phase ≠ .rejected) : Writes s (sealedRegisters s) :=
  .tail (.tail (.tail (.tail (.tail (.single (.putHsig hp _)) (.putTsig (by simpa using hp) _))
    (.putRsig (by simpa using hp) _)) (.putKek (by simpa using hp) _)) (.putKbit (by simpa using hp) _))
    (.putKc (by simpa using hp) _)

theorem sealed_answers (hr : Ready (vHdr ||| vKbit ||| vKc ||| vTbl) true s) (hc : tCount s.tbl ≤ 256) :
    Answers s (.next (sealed s)) := by
  have htable : Write (sealedRegisters s) { sealedRegisters s with tbl := encryptedTable s } := by
    have hstore := Write.tbl_of_ready (sealedRegisters_ready hr) (by decide)
      (length_cbcEnc_table_le (twoKey s.kbit) s.ks.tableIv hc)
    rwa [sealedRegisters_tbl] at hstore
  exact .next ((writes_sealedRegisters hr.1).tail htable)

/-- Every command, on every state, goes on, and makes nothing but the listed writes. -/
theorem exec_answers (i : Instr) (s : State) : Answers s (exec i s) := by
  cases i with
  | nop => exact .keep
  | ksLock => exact execKsLock_answers
  | clear => exact .write .clear
  | cbcEnc kn => exact cipherBuffer_answers fun _ _ _ => cbcEnc_length
  | cbcDec kn => exact cipherBuffer_answers fun _ _ _ => cbcDec_length
  | xorBuf => exact execXorBuf_answers
  | fold8 =>
    exact .unlessRejected fun hp => .check hp fun _ => .check hp fun _ => .check hp fun _ => .write (.putDig hp _)
  | deriveKek => exact .unlessRejected fun hp => .check hp fun _ => .write (.putKek hp _)
  | unwrapKeys => exact mapWorkingKeys_answers
  | wrapKeys => exact mapWorkingKeys_answers
  | mac3 =>
    rw [exec_mac3]
    exact afterNeed_answers fun hr => signBuffer_answers (lenOk := fun n => n % 8 = 0 ∧ 8 ≤ n) hr.1
  | foldSig =>
    rw [exec_foldSig]
    exact afterNeed_answers fun hr => signBuffer_answers (lenOk := fun n => n % 8 = 0) hr.1
  | sigHeader =>
    rw [exec_sigHeader]
    exact afterNeed_answers fun hr => .write (.putSig hr.1 _)
  | sigTable =>
    rw [exec_sigTable]
    exact afterNeed_answers fun hr => afterCount_answers hr.1 fun _ => .write (.putSig hr.1 _)
  | sigRoot =>
    rw [exec_sigRoot]
    exact afterNeed_answers fun hr => afterCount_answers hr.1 fun _ => .write (.putSig hr.1 _)
  | sigBlock =>
    rw [exec_sigBlock]
    exact afterNeed_answers fun hr => afterCount_answers hr.1 fun _ =>
      .check hr.1 fun _ => .check hr.1 fun _ => .check hr.1 fun _ => .write (.putSig hr.1 _)
  | signBlocks =>
    rw [exec_signBlocks]
    exact afterNeed_answers fun hr => afterCount_answers hr.1 (signEveryBlock_answers hr)
  | ldHeader =>
    rw [exec_ldHeader]
    exact gateAt_answers fun hr => .check hr.1 fun _ => .check hr.1 fun _ => .write (.phase hr.1 (by decide))
  | ldKeys =>
    rw [exec_ldKeys]
    exact gateAt_answers fun hr => unwrapWithHeaderKek_answers hr.1
  | ldTable =>
    rw [exec_ldTable]
    exact gateAt_answers fun hr => loadWithinBudget_answers hr.1
  | ldContent =>
    rw [exec_ldContent]
    exact gateAt_answers fun hr => cipherContent_answers (done := fun t => { t with phase := .contentDecrypted }) hr.1
      (fun _ _ _ => cbcDec_length) fun _ => .single (.phase (by exact hr.1) (by decide))
  | ldVerify =>
    rw [exec_ldVerify]
    exact gateAt_answers fun hr => afterCount_answers hr.1 fun _ => verifyBlocks_answers hr.1
  | svSeal =>
    rw [exec_svSeal]
    exact afterNeed_answers fun hr => afterCount_answers hr.1 (sealed_answers hr)
  | tableDec =>
    rw [exec_tableDec]
    exact afterNeed_answers decryptTable_answers
  | tableEnc =>
    rw [exec_tableEnc]
    exact afterNeed_answers fun hr => afterCount_answers hr.1 fun hc =>
      .write (Write.tbl_of_ready hr (by decide) (length_cbcEnc_table_le _ _ hc))
  | contentDec =>
    rw [exec_contentDec]
    exact afterNeed_answers fun hr => cipherContent_answers (done := fun t => t) hr.1
      (fun _ _ _ => cbcDec_length) fun _ => .refl
  | contentEnc =>
    rw [exec_contentEnc]
    exact afterNeed_answers fun hr => cipherContent_answers (done := fun t => t) hr.1
      (fun _ _ _ => cbcEnc_length) fun _ => .refl

end

/-! ## The host transactions -/

section
variable {s : State}

theorem hostCommand_answers (w : Word) (s : State) : Answers s (hostCommand w s) := by
  rcases hostCommand_cases w s with ⟨-, -, h⟩ | ⟨-, -, h⟩ | ⟨hp, -, h⟩ | ⟨-, i, -, h⟩ <;> rw [h]
  · exact .write .clear
  · exact .keep
  · exact .raise hp (by decide)
  · exact exec_answers i s

theorem hostWriteKey_answers (k : Slot) (v : Bytes) (s : State) : Answers s (hostWriteKey k v s) :=
  .unlessRejected fun hp => .ite (fun _ => .raise hp (by decide)) fun hl =>
    .write (.slot hp (Bool.eq_false_iff.mpr hl) k v)

theorem hostWriteReg_answers {r : Reg} {v : Bytes} (hwf : r.takesBytes v.length = true) :
    Answers s (hostWriteReg r v s) := by
  cases r with
  | data d =>
    refine .unlessRejected fun hp => ?_
    rw [writeData_eq]
    split
    case isTrue => exact .keep
    case isFalse => exact .write (.data hp d v)
  | slot k => exact hostWriteKey_answers k v s
  | cmd => cases hwf
  | contbase => cases hwf
  | a i => cases hwf
  | _ => exact .keep

theorem hostSetReg_answers {r : Reg} {v : Nat} (hwf : r.takesNumber = true) : Answers s (hostSetReg r v s) := by
  cases r with
  | cmd => exact hostCommand_answers _ s
  | a i => exact .unlessRejected fun hp => .write (.operand hp i _)
  | contbase => exact .unlessRejected fun hp => .write (.contbase hp _)
  | data d =>
    cases d with
    | sig => exact .keep
    | _ => cases hwf
  | slot k => cases hwf
  | _ => exact .keep

theorem hostWriteTbl_answers (off : Nat) (v : Bytes) (s : State) : Answers s (hostWriteTbl off v s) :=
  .unlessRejected fun hp => .check hp fun h =>
    .write (.tbl hp (inRange_eq_true.mp (Bool.not_eq_false _ ▸ h)))

theorem hostWriteMem_answers (addr : Nat) (v : Bytes) (s : State) : Answers s (hostWriteMem addr v s) :=
  .unlessRejected fun hp => .check hp fun h => .write (.mem hp (fits_of_inRange h))

/-- A read leaves the value it returns, and writes nothing else but the error of an access out of range. -/
theorem hostReadRange_answers (m : Memory) (size addr n : Nat) (s : State) :
    ∃ v, Answers { s with reply := some (.bytes v) } (hostReadRange m size addr n s) := by
  rcases hostReadRange_cases m size addr n s with ⟨-, h⟩ | ⟨-, -, h⟩ | ⟨-, hp, h⟩ <;> rw [h]
  · exact ⟨_, .keep⟩
  · exact ⟨_, .keep⟩
  · exact ⟨_, .write (.error (by exact hp) (by decide) _)⟩

theorem regValue_of_readable {r : Reg} (h : r.readable = true) (s : State) : ∃ v, regValue r s = some v := by
  cases r with
  | slot k => cases h
  | _ => exact ⟨_, rfl⟩

/-- What is true of a number's register is true of some register, so that the number is listed. -/
theorem ofNumber_of_wf {n : Nat} {q : Reg → Bool} (h : ((Reg.ofNumber n).map q).getD false = true) :
    ∃ r, Reg.ofNumber n = some r ∧ q r = true := by
  cases hr : Reg.ofNumber n with
  | none => simp [hr] at h
  | some r => exact ⟨r, rfl, by simpa [hr] using h⟩

theorem ofIndex_of_wf {n : Nat} {q : Slot → Bool} (h : ((Slot.ofIndex n).map q).getD false = true) :
    ∃ k, Slot.ofIndex n = some k ∧ q k = true := by
  cases hk : Slot.ofIndex n with
  | none => simp [hk] at h
  | some k => exact ⟨k, rfl, by simpa [hk] using h⟩

/-- Every transaction of R230 goes on: reset restarts the engine, a read leaves its value, and the rest are writes. -/
theorem perform_answers {x : Transaction} (hwf : x.wf = true) (s : State) :
    (isReset x = true ∧ ∃ contents, perform x s = .next (resetEvent contents s)) ∨
    (isReset x = false ∧ isRead x = true ∧ ∃ v, Answers { s with reply := some v } (perform x s)) ∨
    (isReset x = false ∧ isRead x = false ∧ Answers s (perform x s)) := by
  cases x with
  | command w => exact .inr (.inr ⟨rfl, rfl, hostCommand_answers w s⟩)
  | writeKey n v =>
    obtain ⟨k, hk, -⟩ := ofIndex_of_wf hwf
    refine .inr (.inr ⟨rfl, rfl, ?_⟩)
    simp only [perform, hk]
    exact hostWriteKey_answers k v s
  | writeReg n v =>
    obtain ⟨r, hr, htakes⟩ := ofNumber_of_wf hwf
    refine .inr (.inr ⟨rfl, rfl, ?_⟩)
    simp only [perform, hr]
    exact hostWriteReg_answers htakes
  | setReg n v =>
    obtain ⟨r, hr, htakes⟩ := ofNumber_of_wf hwf
    refine .inr (.inr ⟨rfl, rfl, ?_⟩)
    simp only [perform, hr]
    exact hostSetReg_answers htakes
  | readReg n =>
    obtain ⟨r, hr, hreadable⟩ := ofNumber_of_wf hwf
    obtain ⟨v, hv⟩ := regValue_of_readable hreadable s
    refine .inr (.inl ⟨rfl, rfl, v, ?_⟩)
    simp only [perform, hr, hostReadReg, hv]
    exact .keep
  | writeTbl off v => exact .inr (.inr ⟨rfl, rfl, hostWriteTbl_answers off v s⟩)
  | readTbl off n =>
    obtain ⟨v, hv⟩ := hostReadRange_answers s.tbl Config.tblBytes off n s
    exact .inr (.inl ⟨rfl, rfl, _, hv⟩)
  | writeMem addr v => exact .inr (.inr ⟨rfl, rfl, hostWriteMem_answers addr v s⟩)
  | readMem addr n =>
    obtain ⟨v, hv⟩ := hostReadRange_answers s.mem s.params.memSize.val addr n s
    exact .inr (.inl ⟨rfl, rfl, _, hv⟩)
  | reset contents => exact .inl ⟨rfl, contents, rfl⟩

end

/-! ## The step -/

section
variable {s t : State} {x : Transaction} {rest : List Transaction}

theorem step_of_no_input (h : s.inbox = []) : step s = .next s := by
  rw [step, takeNext, h]

theorem step_of_wf (hinbox : s.inbox = x :: rest) (hwf : x.wf = true) : step s = perform x (s.taking rest) := by
  rw [step, takeNext, hinbox]
  exact if_pos hwf

theorem step_of_not_wf (hinbox : s.inbox = x :: rest) (hwf : x.wf = false) : step s = .refused .notATransaction := by
  rw [step, takeNext, hinbox]
  exact if_neg (Bool.eq_false_iff.mp hwf)

/-- What a step that goes on can have done with its transaction: reset, a read and perhaps its error, or writes. -/
theorem step_cases (hinbox : s.inbox = x :: rest) (h : step s = .next t) :
    (isReset x = true ∧ ∃ contents, t = resetEvent contents (s.taking rest)) ∨
    (isReset x = false ∧ isRead x = true ∧ ∃ v, Writes { s.taking rest with reply := some v } t) ∨
    (isReset x = false ∧ isRead x = false ∧ Writes (s.taking rest) t) := by
  cases hwf : x.wf with
  | false =>
    rw [step_of_not_wf hinbox hwf] at h
    cases h
  | true =>
    rw [step_of_wf hinbox hwf] at h
    rcases perform_answers hwf (s.taking rest) with ⟨hreset, c, hc⟩ | ⟨hreset, hread, v, u, hu, hwrites⟩ |
      ⟨hreset, hread, u, hu, hwrites⟩
    · rw [hc] at h
      cases h
      exact .inl ⟨hreset, c, rfl⟩
    · rw [hu] at h
      cases h
      exact .inr (.inl ⟨hreset, hread, v, hwrites⟩)
    · rw [hu] at h
      cases h
      exact .inr (.inr ⟨hreset, hread, hwrites⟩)

/-- An invariant that every single write and reset keep, and that says nothing of the host's side, is one that every
step keeps. -/
theorem step_keeps {P : State → Prop} (hwrite : ∀ s t, Write s t → P s → P t)
    (hreset : ∀ contents (p : Params), P (State.resetWith p (Memory.ofCells p.memSize.val contents)))
    (hhost : ∀ rest v s, P s → P { s with inbox := rest, reply := v }) (hs : P s) (h : step s = .next t) : P t := by
  cases hinbox : s.inbox with
  | nil =>
    rw [step_of_no_input hinbox] at h
    cases h
    exact hs
  | cons x rest =>
    rcases step_cases hinbox h with ⟨-, c, rfl⟩ | ⟨-, -, v, hwrites⟩ | ⟨-, -, hwrites⟩
    · exact hhost rest none _ (hreset c s.params)
    · exact hwrites.keeps hwrite (hhost rest (some v) s hs)
    · exact hwrites.keeps hwrite (hhost rest none s hs)

end

end Sys2Proof.Laws.StepWrites
end

section
/-! The four invariants (spec/10_state.md R26, R27, R32; spec/20_memory.md section 2), each said of registers, slots and
memories by name and kept by every single write, and so by every step; and that a step touches the host's side of the
state only by taking its transaction and leaving a read's value. -/

namespace Sys2Proof.Laws.Invariants

open Sys2Proof Sys2Proof.Machine Sys2Proof.Laws.Registers Sys2Proof.Laws.StepWrites

variable {s t : State}

/-! ## The memories -/

theorem memoriesOk_iff :
    memoriesOk s = true ↔ (s.mem.wf = true ∧ s.mem.below s.params.memSize.val = true) ∧
      (s.tbl.wf = true ∧ s.tbl.below Config.tblBytes = true) := by
  simp only [memoriesOk, Bool.and_eq_true, and_assoc]

theorem memoriesOk_resetWith {p : Params} {m : Memory} (hwf : m.wf = true) (hbelow : m.below p.memSize.val = true) :
    memoriesOk (State.resetWith p m) = true := memoriesOk_iff.mpr ⟨⟨hwf, hbelow⟩, rfl, rfl⟩

theorem write_memoriesOk (h : Write s t) (hs : memoriesOk s = true) : memoriesOk t = true := by
  rw [memoriesOk_iff] at hs ⊢
  obtain ⟨⟨hm, hmb⟩, ht, htb⟩ := hs
  cases h with
  | data hp d v => simpa using ⟨⟨hm, hmb⟩, ht, htb⟩
  | operand hp i v =>
    rw [writeA_frame]
    exact ⟨⟨hm, hmb⟩, ht, htb⟩
  | mem hp hfits => exact ⟨⟨Memory.write_wf hm, Memory.write_below hmb hfits⟩, ht, htb⟩
  | tbl hp hfits => exact ⟨⟨hm, hmb⟩, Memory.write_wf ht, Memory.write_below htb hfits⟩
  | error hp he w => exact ⟨⟨hm, hmb⟩, rfl, rfl⟩
  | clear => exact ⟨⟨hm, hmb⟩, rfl, rfl⟩
  | _ => exact ⟨⟨hm, hmb⟩, ht, htb⟩

/-! ## Invalid registers -/

/-- What holds of all eleven data registers, one by one. -/
theorem forall_dataReg {P : DataReg → Prop} :
    (∀ d, P d) ↔ P .hdr ∧ P .hsig ∧ P .kbit ∧ P .kc ∧ P .kek ∧ P .tsig ∧ P .rsig ∧ P .sig ∧ P .dig ∧ P .ckey ∧
      P .civ := by
  refine ⟨fun h => ⟨h _, h _, h _, h _, h _, h _, h _, h _, h _, h _, h _⟩, ?_⟩
  rintro ⟨h0, h1, h2, h3, h4, h5, h6, h7, h8, h9, h10⟩ d
  cases d <;> assumption

/-- The invariant register by register: one whose valid bit is clear reads as zero bytes. -/
theorem invalidIsZero_iff :
    invalidIsZero s = true ↔
      (∀ d : DataReg, s.valid.getLsbD d.index = false → readData d s = List.replicate d.bytes 0) ∧
        (s.valid.getLsbD 11 = false → s.tbl = []) := by
  simp only [forall_dataReg, readData, DataReg.index, DataReg.bytes, Nat.reduceMul, bytesOf_eq_replicate_iff]
  simp [invalidIsZero, or_iff_not_imp_left, and_assoc]

theorem readData_resetWith (d : DataReg) (p : Params) (m : Memory) :
    readData d (State.resetWith p m) = List.replicate d.bytes 0 := by
  cases d <;> exact Management.bytesOf_zero _ _

theorem invalidIsZero_resetWith (p : Params) (m : Memory) : invalidIsZero (State.resetWith p m) = true :=
  invalidIsZero_iff.mpr ⟨fun d _ => readData_resetWith d p m, fun _ => rfl⟩

/-- A write of `NAME` sets the bit of `NAME` and no other register's bytes (R27). -/
theorem putData_invalidIsZero {d : DataReg} {v : Bytes} (hs : invalidIsZero s = true) :
    invalidIsZero (putData d v s) = true := by
  rw [invalidIsZero_iff] at hs ⊢
  obtain ⟨hdata, htbl⟩ := hs
  refine ⟨fun d' hbit => ?_, fun hbit => ?_⟩ <;>
    rw [getLsbD_valid_putData, Bool.or_eq_false_iff, decide_eq_false_iff_not] at hbit
  · rw [readData_putData_of_ne fun h => hbit.2 (congrArg DataReg.index h), hdata d' hbit.1]
  · rw [putData_tbl, htbl hbit.1]

theorem write_invalidIsZero (h : Write s t) (hs : invalidIsZero s = true) :
    invalidIsZero t = true := by
  cases h with
  | data hp d v => exact putData_invalidIsZero hs
  | operand hp i v =>
    rw [writeA_frame]
    exact hs
  | tbl hp hfits =>
    rw [invalidIsZero_iff] at hs ⊢
    obtain ⟨hdata, -⟩ := hs
    have hbits (n : Nat) : (s.valid ||| vTbl).getLsbD n = (s.valid.getLsbD n || decide (n = 11)) := by
      rw [BitVec.getLsbD_or, vTbl, validBit, getLsbD_ofNat_two_pow (by decide)]
    refine ⟨fun d hbit => hdata d ?_, fun hbit => ?_⟩ <;>
      rw [hbits, Bool.or_eq_false_iff] at hbit
    · exact hbit.1
    · cases hbit.2
  | error hp he w => exact invalidIsZero_iff.mpr ⟨fun d _ => Exceptions.readData_takeError d _ w s, fun _ => rfl⟩
  | clear => exact invalidIsZero_iff.mpr ⟨fun d _ => Management.readData_clearInstance d s, fun _ => rfl⟩
  | _ => exact hs

/-! ## The error record -/

theorem errorRecordOk_iff :
    errorRecordOk s = true ↔
      (s.phase = .rejected → s.valid = 0 ∧
        s.err ∈ ([1, 2, 3, 4, 5, 6, 7, 8, 16, 17, 18, 19, 20, 21] : List (BitVec 8))) ∧
      (s.phase ≠ .rejected → s.err = 0 ∧ s.errinfo = 0) := by
  unfold errorRecordOk
  split
  case isTrue hp => simp [hp]
  case isFalse hp => simp [hp]

/-- Outside `Rejected` the record looks at `ERR` and `ERRINFO` alone. -/
theorem errorRecordOk_congr (hp : s.phase ≠ .rejected) (hp' : t.phase ≠ .rejected) (herr : t.err = s.err)
    (hinfo : t.errinfo = s.errinfo) (hs : errorRecordOk s = true) : errorRecordOk t = true := by
  simpa [errorRecordOk, hp, hp', herr, hinfo] using hs

theorem errorRecordOk_resetWith (p : Params) (m : Memory) : errorRecordOk (State.resetWith p m) = true := rfl

theorem write_errorRecordOk (h : Write s t) (hs : errorRecordOk s = true) :
    errorRecordOk t = true := by
  cases h with
  | data hp d v => exact errorRecordOk_congr hp (by simpa using hp) putData_err putData_errinfo hs
  | operand hp i v =>
    rw [writeA_frame]
    exact errorRecordOk_congr hp hp rfl rfl hs
  | contbase hp v => exact errorRecordOk_congr hp hp rfl rfl hs
  | mem hp hfits => exact errorRecordOk_congr hp hp rfl rfl hs
  | tbl hp hfits => exact errorRecordOk_congr hp hp rfl rfl hs
  | slot hp hl k v => exact errorRecordOk_congr hp hp rfl rfl hs
  | lock hp hk => exact errorRecordOk_congr hp hp rfl rfl hs
  | phase hp hp' => exact errorRecordOk_congr hp hp' rfl rfl hs
  | @error hp e he w =>
    refine errorRecordOk_iff.mpr ⟨fun _ => ⟨rfl, ?_⟩, fun hp' => absurd rfl hp'⟩
    rw [takeError_err]
    cases e with
    | malformedEntry => exact absurd rfl he
    | _ => decide
  | clear => rfl

/-! ## The key store -/

/-- What holds of all ten slots, one by one. -/
theorem forall_slot {P : Slot → Prop} :
    (∀ k, P k) ↔ P .sigMaster ∧ P .sigHash ∧ P .kbitMaster ∧ P .kbitIv ∧ P .kcMaster ∧ P .kcIv ∧ P .rootMaster ∧
      P .rootHash ∧ P .tableIv ∧ P .contentIv := by
  refine ⟨fun h => ⟨h _, h _, h _, h _, h _, h _, h _, h _, h _, h _⟩, ?_⟩
  rintro ⟨h0, h1, h2, h3, h4, h5, h6, h7, h8, h9⟩ k
  cases k <;> assumption

/-- The invariant slot by slot: a locked store is complete, and an absent slot holds zero bytes. -/
theorem keyStoreOk_iff :
    keyStoreOk s = true ↔ (s.kslock = true → s.kspresent = 0x3FF) ∧
      ∀ k : Slot, s.kspresent.getLsbD k.index = false → slotBytes k s.ks = List.replicate k.bytes 0 := by
  simp only [forall_slot, slotBytes, Slot.index, Slot.bytes, Nat.reduceMul, bytesOf_eq_replicate_iff]
  simp [keyStoreOk, or_iff_not_imp_left, and_assoc]

theorem slotBytes_empty (k : Slot) : slotBytes k KeyStore.empty = List.replicate k.bytes 0 := by
  cases k <;> exact Management.bytesOf_zero _ _

theorem keyStoreOk_resetWith (p : Params) (m : Memory) : keyStoreOk (State.resetWith p m) = true :=
  keyStoreOk_iff.mpr ⟨nofun, fun k _ => slotBytes_empty k⟩

/-- The invariant looks at nothing but the key store. -/
theorem keyStoreOk_congr (hks : t.ks = s.ks) (hpresent : t.kspresent = s.kspresent) (hlock : t.kslock = s.kslock)
    (hs : keyStoreOk s = true) : keyStoreOk t = true := by
  rw [keyStoreOk_iff] at hs ⊢
  rwa [hks, hpresent, hlock]

theorem write_keyStoreOk (h : Write s t) (hs : keyStoreOk s = true) : keyStoreOk t = true := by
  cases h with
  | data hp d v => exact keyStoreOk_congr putData_ks putData_kspresent putData_kslock hs
  | operand hp i v =>
    rw [writeA_frame]
    exact hs
  | slot hp hl k v =>
    rw [keyStoreOk_iff] at hs ⊢
    obtain ⟨-, hslots⟩ := hs
    refine ⟨fun hl' => absurd hl' (by simp [hl]), fun k' hbit => ?_⟩
    rw [getLsbD_or_slotBit, Bool.or_eq_false_iff, decide_eq_false_iff_not] at hbit
    rw [slotBytes_writeSlot_of_ne fun h => hbit.2 (congrArg Slot.index h), hslots k' hbit.1]
  | lock hp hk =>
    rw [keyStoreOk_iff] at hs ⊢
    obtain ⟨-, hslots⟩ := hs
    exact ⟨fun _ => hk, hslots⟩
  | error hp he w => exact hs
  | clear => exact hs
  | _ => exact hs

/-- A locked store is written by nothing. -/
theorem write_keyStore_of_locked (h : Write s t) (hl : s.kslock = true) :
    t.ks = s.ks ∧ t.kspresent = s.kspresent ∧ t.kslock = true := by
  cases h with
  | data hp d v => exact ⟨putData_ks, putData_kspresent, putData_kslock.trans hl⟩
  | operand hp i v =>
    rw [writeA_frame]
    exact ⟨rfl, rfl, hl⟩
  | slot hp hl' k v =>
    rw [hl] at hl'
    cases hl'
  | lock hp hk => exact ⟨rfl, rfl, rfl⟩
  | _ => exact ⟨rfl, rfl, hl⟩

theorem writes_keyStore_of_locked (h : Writes s t) (hl : s.kslock = true) :
    t.ks = s.ks ∧ t.kspresent = s.kspresent ∧ t.kslock = true := by
  refine h.keeps (P := fun u => u.ks = s.ks ∧ u.kspresent = s.kspresent ∧ u.kslock = true) ?_ ⟨rfl, rfl, hl⟩
  rintro u v hwrite ⟨hks, hpresent, hlock⟩
  rw [← hks, ← hpresent]
  exact write_keyStore_of_locked hwrite hlock

/-! ## The host's side -/

/-- The parameters are no state (R45), and the input and the last reply are not the engine's. -/
theorem write_host_side (h : Write s t) : t.inbox = s.inbox ∧ t.params = s.params ∧ t.reply = s.reply := by
  cases h with
  | data hp d v => exact ⟨putData_inbox, putData_params, putData_reply⟩
  | operand hp i v =>
    rw [writeA_frame]
    exact ⟨rfl, rfl, rfl⟩
  | _ => exact ⟨rfl, rfl, rfl⟩

theorem writes_host_side (h : Writes s t) : t.inbox = s.inbox ∧ t.params = s.params ∧ t.reply = s.reply := by
  refine h.keeps (P := fun u => u.inbox = s.inbox ∧ u.params = s.params ∧ u.reply = s.reply) ?_ ⟨rfl, rfl, rfl⟩
  rintro u v hwrite ⟨hinbox, hparams, hreply⟩
  rw [← hinbox, ← hparams, ← hreply]
  exact write_host_side hwrite

theorem isRead_of_isReset {x : Transaction} (h : isReset x = true) : isRead x = false := by
  cases x with
  | reset contents => rfl
  | _ => cases h

end Sys2Proof.Laws.Invariants

open Sys2Proof Sys2Proof.Machine Sys2Proof.Laws.StepWrites Sys2Proof.Laws.Invariants

/-- Settles O7: writes leave the host's side alone, so that it changes only as the transaction is taken, as a read
leaves its value, and as reset restarts the engine. -/
theorem stepConsumesOneTransaction : Obligations.StepConsumesOneTransaction := by
  unfold Obligations.StepConsumesOneTransaction
  refine ⟨fun s => step_of_no_input, fun s t x rest hinbox h => ?_⟩
  rcases step_cases hinbox h with ⟨hreset, c, rfl⟩ | ⟨-, hread, v, hwrites⟩ | ⟨-, hread, hwrites⟩
  · simp [isRead_of_isReset hreset, resetEvent]
  · obtain ⟨hin, hparams, hreply⟩ := writes_host_side hwrites
    simp [hin, hparams, hreply, hread]
  · obtain ⟨hin, hparams, hreply⟩ := writes_host_side hwrites
    simp [hin, hparams, hreply, hread]

/-- Settles O8: what every kind of transaction answers is a next state. -/
theorem everyTransactionCompletes : Obligations.EveryTransactionCompletes := by
  unfold Obligations.EveryTransactionCompletes
  refine fun s x rest hinbox => ⟨fun hwf => ?_, step_of_not_wf hinbox⟩
  rw [step_of_wf hinbox hwf]
  rcases perform_answers hwf (s.taking rest) with ⟨-, c, h⟩ | ⟨-, -, v, t, h, -⟩ | ⟨-, -, t, h, -⟩
  · exact ⟨_, h⟩
  · exact ⟨t, h⟩
  · exact ⟨t, h⟩

/-- Settles O56: stores keep the canonical form, and each has passed its range check. -/
theorem stepKeepsMemoriesOk : Obligations.StepKeepsMemoriesOk := by
  unfold Obligations.StepKeepsMemoriesOk
  refine fun s t => step_keeps (fun _ _ => write_memoriesOk) (fun contents p => ?_) fun _ _ _ hs => hs
  obtain ⟨hwf, hbelow⟩ := Memory.ofCells_wf (size := p.memSize.val) contents
  exact memoriesOk_resetWith hwf hbelow

/-- Settles O57: a write of a register sets its own valid bit, and the bits are cleared only together with the
registers. -/
theorem stepKeepsInvalidZero : Obligations.StepKeepsInvalidZero := by
  unfold Obligations.StepKeepsInvalidZero
  exact fun s t => step_keeps (fun _ _ => write_invalidIsZero) (fun _ p => invalidIsZero_resetWith p _)
    fun _ _ _ hs => hs

/-- Settles O58: nothing but the error mechanism writes a record, and it takes no error that the engine does not
raise. -/
theorem stepKeepsErrorRecord : Obligations.StepKeepsErrorRecord := by
  unfold Obligations.StepKeepsErrorRecord
  exact fun s t => step_keeps (fun _ _ => write_errorRecordOk) (fun _ p => errorRecordOk_resetWith p _)
    fun _ _ _ hs => hs

/-- Settles O59: a slot is written with its present bit and only while the store is unlocked, and the lock is set only
on a complete store. -/
theorem stepKeepsKeyStore : Obligations.StepKeepsKeyStore := by
  unfold Obligations.StepKeepsKeyStore
  refine ⟨fun s t => step_keeps (fun _ _ => write_keyStoreOk) (fun _ p => keyStoreOk_resetWith p _)
    fun _ _ _ hs => hs, fun s t x rest hinbox hreset hl h => ?_⟩
  rcases step_cases hinbox h with ⟨hreset', -⟩ | ⟨-, -, v, hwrites⟩ | ⟨-, -, hwrites⟩
  · rw [hreset] at hreset'
    cases hreset'
  · exact writes_keyStore_of_locked (s := { s.taking rest with reply := some v }) hwrites hl
  · exact writes_keyStore_of_locked (s := s.taking rest) hwrites hl

/-- Settles O60: reset leaves zeroed registers and an empty key store, and MEM as it is given. -/
theorem resetMeetsTheInvariants : Obligations.ResetMeetsTheInvariants := by
  unfold Obligations.ResetMeetsTheInvariants
  have hsafe (p : Params) (m : Memory) (hwf : m.wf = true) (hbelow : m.below p.memSize.val = true) :
      safeState (State.resetWith p m) = true := by
    rw [safeState, memoriesOk_resetWith hwf hbelow, invalidIsZero_resetWith, errorRecordOk_resetWith,
      keyStoreOk_resetWith]
    rfl
  exact ⟨hsafe Config.instanceParams [] rfl rfl, hsafe⟩

end

section
/-! The host interface (spec/46_management.md R230 to R242): what the step does with each kind of transaction, said once
through the register it names, and the rules of the host's writes and reads, of `Rejected` and of reset. -/

namespace Sys2Proof.Laws.HostPort

open Sys2Proof Sys2Proof.Machine Sys2Proof.Laws.CipherEngine Sys2Proof.Laws.PhaseTable Sys2Proof.Laws.Registers
open Sys2Proof.Laws.StepWrites

variable {s : State} {rest : List Transaction}

/-! ## One step of each kind of transaction -/

section
variable {r : Reg} {k : Slot} {v : Bytes}

theorem step_command {w : Word} (h : s.inbox = .command w :: rest) : step s = hostCommand w (s.taking rest) :=
  step_of_wf h rfl

theorem writeKey_wf (k : Slot) (v : Bytes) : (Transaction.writeKey k.index v).wf = (k.bytes == v.length) := by
  rw [Transaction.wf, slot_ofIndex_index]
  rfl

theorem writeReg_wf (r : Reg) (v : Bytes) : (Transaction.writeReg r.number v).wf = r.takesBytes v.length := by
  rw [Transaction.wf, reg_ofNumber_number]
  rfl

theorem step_writeKey (h : s.inbox = .writeKey k.index v :: rest) (hv : v.length = k.bytes) :
    step s = hostWriteKey k v (s.taking rest) := by
  rw [step_of_wf h (by rw [writeKey_wf, hv, beq_self_eq_true]), perform, slot_ofIndex_index]

theorem step_writeReg (h : s.inbox = .writeReg r.number v :: rest) (hr : r.takesBytes v.length = true) :
    step s = hostWriteReg r v (s.taking rest) := by
  rw [step_of_wf h ((writeReg_wf r v).trans hr), perform, reg_ofNumber_number]

theorem step_setReg {n : Nat} (h : s.inbox = .setReg r.number n :: rest) (hr : r.takesNumber = true) :
    step s = hostSetReg r n (s.taking rest) := by
  have hwf : (Transaction.setReg r.number n).wf = true := by
    rw [Transaction.wf, reg_ofNumber_number]
    exact hr
  rw [step_of_wf h hwf, perform, reg_ofNumber_number]

theorem step_readReg (h : s.inbox = .readReg r.number :: rest) (hr : r.readable = true) :
    step s = hostReadReg r (s.taking rest) := by
  have hwf : (Transaction.readReg r.number).wf = true := by
    rw [Transaction.wf, reg_ofNumber_number]
    exact hr
  rw [step_of_wf h hwf, perform, reg_ofNumber_number]

end

/-! ## Commands (R231) -/

/-- A legal word runs its command in every phase: in `Rejected` too, where every command but `CLEAR` does nothing. -/
theorem hostCommand_of_decode_ok {w : Word} {i : Instr} (h : decode w = .ok i) (s : State) :
    hostCommand w s = exec i s := by
  rcases hostCommand_cases w s with ⟨-, rfl, hanswer⟩ | ⟨hp, hw, hanswer⟩ | ⟨-, ⟨e, he⟩, -⟩ | ⟨-, j, hj, hanswer⟩
  · have hclear : decode 0x00000002 = .ok .clear := decode_opcode_keyCount (i := .clear) (by decide)
    rw [hclear] at h
    cases h
    exact hanswer
  · rw [hanswer, exec_of_rejected ?_ hp]
    rintro rfl
    exact hw (eq_of_decode_clear h)
  · rw [he] at h
    cases h
  · rw [hj] at h
    cases h
    exact hanswer

theorem hostCommand_of_decode_error {w : Word} {e : DecodeError} (hp : s.phase ≠ .rejected)
    (h : decode w = .error e) : hostCommand w s = .next (takeError .illegalCommand w s) := by
  rw [hostCommand, if_neg hp, h]
  rfl

/-! ## Writes of registers and slots (R232, R233) -/

theorem takesBytes_data {d : DataReg} {v : Bytes} (hv : v.length = d.bytes) :
    (Reg.data d).takesBytes v.length = true := by
  rw [hv]
  cases d <;> rfl

theorem hostWriteReg_data {d : DataReg} {v : Bytes} (hp : s.phase ≠ .rejected) (hd : d ≠ .sig) :
    hostWriteReg (.data d) v s = .next (putData d v s) := by
  rw [hostWriteReg, if_neg hp, writeData_eq, if_neg hd]

/-- A host write of a data register leaves `SIG`, and everything that is no data register but `VALID`. -/
theorem putData_frame_of_ne_sig {d : DataReg} (hd : d ≠ .sig) (v : Bytes) (s : State) :
    putData d v s = { s with
      hdr := (putData d v s).hdr, hsig := (putData d v s).hsig, kbit := (putData d v s).kbit,
      kc := (putData d v s).kc, kek := (putData d v s).kek, tsig := (putData d v s).tsig,
      rsig := (putData d v s).rsig, dig := (putData d v s).dig, ckey := (putData d v s).ckey,
      civ := (putData d v s).civ, valid := (putData d v s).valid } := by
  cases d with
  | sig => exact absurd rfl hd
  | _ => rfl

theorem hostSetReg_a {i : Fin 4} {n : Nat} (hp : s.phase ≠ .rejected) :
    hostSetReg (.a i) n s = .next (writeA i (BitVec.ofNat 32 n) s) := if_neg hp

theorem ofNat_mod_two_pow (n : Nat) : BitVec.ofNat 32 (n % 2 ^ 32) = BitVec.ofNat 32 n :=
  BitVec.eq_of_toNat_eq (by simp)

theorem hostSetReg_contbase {n : Nat} (hp : s.phase ≠ .rejected) :
    hostSetReg .contbase n s = .next { s with contbase := BitVec.ofNat 32 n } := if_neg hp

/-- The registers that no host writes: a number and a byte string are transactions on them, and are ignored. -/
theorem readOnly_ignores {r : Reg} (hr : r ∈ [Reg.status, .err, .errinfo, .valid, .kspresent]) :
    (r.takesNumber = true ∧ ∀ n s, hostSetReg r n s = .next s) ∧
      ∀ v : Bytes, r.takesBytes v.length = true ∧ ∀ s, hostWriteReg r v s = .next s := by
  simp only [List.mem_cons, List.not_mem_nil, or_false] at hr
  rcases hr with rfl | rfl | rfl | rfl | rfl <;> exact ⟨⟨rfl, fun _ _ => rfl⟩, fun _ => ⟨rfl, fun _ => rfl⟩⟩

/-- A byte string written to the number of a slot is, well formed or not, what a write of the slot is (log 8). -/
theorem step_writeReg_slot {k : Slot} {v : Bytes} (h : s.inbox = .writeReg (Reg.slot k).number v :: rest) :
    step s = step { s with inbox := .writeKey k.index v :: rest } := by
  have hkey : { s with inbox := .writeKey k.index v :: rest }.inbox = .writeKey k.index v :: rest := rfl
  by_cases hv : v.length = k.bytes
  · rw [step_writeReg h (by rw [Reg.takesBytes, hv, beq_self_eq_true]), step_writeKey hkey hv]
    rfl
  · have hne : (k.bytes == v.length) = false := by simpa using Ne.symm hv
    rw [step_of_not_wf h ((writeReg_wf _ v).trans hne), step_of_not_wf hkey ((writeKey_wf k v).trans hne)]

theorem hostWriteKey_of_locked {k : Slot} {v : Bytes} (hp : s.phase ≠ .rejected) (hl : s.kslock = true) :
    hostWriteKey k v s = .next (takeError .keyStoreLocked (BitVec.ofNat 32 k.index) s) := by
  rw [hostWriteKey, if_neg hp, if_pos hl, raise]

theorem hostWriteKey_of_unlocked {k : Slot} {v : Bytes} (hp : s.phase ≠ .rejected) (hl : s.kslock = false) :
    hostWriteKey k v s = .next { s with ks := writeSlot k v s.ks, kspresent := s.kspresent ||| slotBit k } := by
  rw [hostWriteKey, if_neg hp, if_neg (by simp [hl])]

/-! ## Writes of `TBL` and MEM (R235, R237) -/

section
variable {a : Nat} {v : Bytes}

theorem hostWriteTbl_of_le (hp : s.phase ≠ .rejected) (h : a + v.length ≤ 4104) :
    hostWriteTbl a v s = .next { s with tbl := s.tbl.write a v, valid := s.valid ||| vTbl } := by
  rw [hostWriteTbl, if_neg hp, if_neg (by simpa [Config.tblBytes] using h)]

theorem hostWriteTbl_of_lt (hp : s.phase ≠ .rejected) (h : 4104 < a + v.length) :
    hostWriteTbl a v s = .next (takeError .accessFault (BitVec.ofNat 32 a) s) := by
  have hrange : inRange a v.length Config.tblBytes = false := inRange_eq_false.mpr h
  rw [hostWriteTbl, if_neg hp, if_pos hrange, raise]

theorem hostWriteMem_of_fits (hp : s.phase ≠ .rejected) (h : Fits s a v.length) :
    hostWriteMem a v s = .next { s with mem := s.mem.write a v } := by
  rw [hostWriteMem, if_neg hp, if_neg (by simp [inRange_eq_true_of_fits h])]

theorem hostWriteMem_of_not_fits (hp : s.phase ≠ .rejected) (h : ¬ Fits s a v.length) :
    hostWriteMem a v s = .next (takeError .accessFault (BitVec.ofNat 32 a) s) := by
  rw [hostWriteMem, if_neg hp, if_pos (inRange_eq_false_of_not_fits h), raise]

end

/-! ## Reads (R234, R236, R238) -/

theorem readable_of_regValue {r : Reg} {v : Reply} (h : regValue r s = some v) : r.readable = true := by
  cases r with
  | slot k => cases h
  | _ => rfl

theorem hostReadReg_of_regValue {r : Reg} {v : Reply} (h : regValue r s = some v) :
    hostReadReg r s = .next { s with reply := some v } := by
  rw [hostReadReg, h]

theorem hostReadRange_of_le {m : Memory} {size a n : Nat} (h : a + n ≤ size) :
    hostReadRange m size a n s = .next { s with reply := some (.bytes (m.read a n)) } :=
  if_pos (inRange_eq_true.mpr h)

theorem hostReadRange_of_lt {m : Memory} {size a n : Nat} (h : size < a + n) :
    (s.phase = .rejected →
      hostReadRange m size a n s = .next { s with reply := some (.bytes (List.replicate n 0)) }) ∧
    (s.phase ≠ .rejected → hostReadRange m size a n s =
      .next { takeError .accessFault (BitVec.ofNat 32 a) s with reply := some (.bytes (List.replicate n 0)) }) := by
  rw [hostReadRange, if_neg (by simpa using h)]
  exact ⟨fun hp => if_pos hp, fun hp => if_neg hp⟩

/-- `STATUS` bit by bit (R25): `PHASE` in bits 2:0, `KSLOCK` in bit 3. -/
theorem statusWord_fields (s : State) :
    (statusWord s).extractLsb' 0 3 = BitVec.ofNat 3 s.phase.code ∧ (statusWord s).getLsbD 3 = s.kslock ∧
      (statusWord s).extractLsb' 4 28 = 0 := by
  unfold statusWord
  cases s.phase <;> cases s.kslock <;> decide

/-! ## `need(...)` (R257) -/

/-- The mask bit by bit: a named register that is invalid, and bit 31 for a named key store that is not locked. -/
theorem getLsbD_missing (names : BitVec 12) (ks : Bool) (s : State) (n : Nat) :
    (missing names ks s).getLsbD n =
      (decide (n < 12) && names.getLsbD n && !s.valid.getLsbD n || decide (n = 31) && ks && !s.kslock) := by
  have hlock : (if ks && !s.kslock then (0x80000000 : Word) else 0).getLsbD n =
      (decide (n = 31) && ks && !s.kslock) := by
    rw [Bool.and_assoc]
    split
    case isTrue h =>
      rw [h, Bool.and_true, ← getLsbD_ofNat_two_pow (w := 32) (n := 31) (by decide) n]
      rfl
    case isFalse h =>
      rw [Bool.eq_false_iff.mpr h, Bool.and_false]
      exact BitVec.getLsbD_zero
  rw [missing, BitVec.getLsbD_or, hlock, BitVec.getLsbD_setWidth, BitVec.getLsbD_and, BitVec.getLsbD_not]
  by_cases h12 : n < 12
  · simp [h12, show n < 32 by omega]
  · simp [h12, BitVec.getLsbD_of_ge names n (by omega)]

/-! ## `Rejected` (R262, R263) -/

/-- In `Rejected` a transaction that is no read, no word of `CLEAR` and no reset does nothing. -/
theorem perform_of_rejected {x : Transaction} (hp : s.phase = .rejected) (hwf : x.wf = true) (hread : isRead x = false)
    (hclear : isClear x = false) (hreset : isReset x = false) : perform x s = .next s := by
  have hcommand (w : Word) (hw : w ≠ 0x00000002) : hostCommand w s = .next s := by
    rw [hostCommand, if_pos hp, if_neg hw]
  cases x with
  | command w => exact hcommand w (by simpa [isClear] using hclear)
  | writeKey n v =>
    obtain ⟨k, hk, -⟩ := ofIndex_of_wf hwf
    rw [perform, hk]
    exact if_pos hp
  | writeReg n v =>
    obtain ⟨r, hr, htakes⟩ := ofNumber_of_wf hwf
    rw [perform, hr]
    cases r with
    | data d => exact if_pos hp
    | slot k => exact if_pos hp
    | cmd => cases htakes
    | contbase => cases htakes
    | a i => cases htakes
    | _ => rfl
  | setReg n v =>
    obtain ⟨r, hr, htakes⟩ := ofNumber_of_wf hwf
    rw [perform, hr]
    cases r with
    | cmd =>
      obtain rfl := number_eq_zero_of_cmd hr
      exact hcommand _ (by simpa [isClear] using hclear)
    | a i => exact if_pos hp
    | contbase => exact if_pos hp
    | data d =>
      cases d with
      | sig => rfl
      | _ => cases htakes
    | slot k => cases htakes
    | _ => rfl
  | writeTbl off v => exact if_pos hp
  | writeMem addr v => exact if_pos hp
  | reset contents => cases hreset
  | _ => cases hread

/-- In `Rejected` a read raises nothing, out of range too. -/
theorem perform_read_of_rejected {x : Transaction} (hp : s.phase = .rejected) (hwf : x.wf = true)
    (hread : isRead x = true) : ∃ r, perform x s = .next { s with reply := some r } := by
  have hrange (m : Memory) (size a n : Nat) :
      ∃ r, hostReadRange m size a n s = .next { s with reply := some r } := by
    rcases hostReadRange_cases m size a n s with ⟨-, h⟩ | ⟨-, -, h⟩ | ⟨-, hp', -⟩
    · exact ⟨_, h⟩
    · exact ⟨_, h⟩
    · exact absurd hp hp'
  cases x with
  | readReg n =>
    obtain ⟨r, hr, hreadable⟩ := ofNumber_of_wf hwf
    obtain ⟨v, hv⟩ := regValue_of_readable hreadable s
    exact ⟨v, by rw [perform, hr]; exact hostReadReg_of_regValue hv⟩
  | readTbl off n => exact hrange _ _ off n
  | readMem addr n => exact hrange _ _ addr n
  | _ => cases hread

/-- The word of `CLEAR`, in either form, restarts the engine. -/
theorem perform_clear_of_rejected {x : Transaction} (hp : s.phase = .rejected) (hclear : isClear x = true) :
    perform x s = .next (clearInstance s) := by
  have hcommand : hostCommand 0x00000002 s = .next (clearInstance s) := by
    rw [hostCommand, if_pos hp, if_pos rfl]
    rfl
  cases x with
  | command w =>
    obtain rfl : w = 0x00000002 := by simpa [isClear] using hclear
    exact hcommand
  | setReg n v =>
    obtain ⟨rfl, hv⟩ : n = 0 ∧ BitVec.ofNat 32 v = 0x00000002 := by simpa [isClear] using hclear
    rw [← hv] at hcommand
    exact hcommand
  | _ => cases hclear

/-! ## Reset (R46) -/

/-- Writing the cells of a canonical list into a memory leaves the list's bytes where it has any. -/
theorem get_foldl_set {size : Nat} {cells m : Memory} {lo : Nat} (hm : m.wf = true) (hwf : cells.wfAbove lo = true)
    (hbelow : cells.below size = true) (x : Nat) :
    Memory.get (cells.foldl (fun m c => if c.1 < size then m.set c.1 c.2 else m) m) x =
      if cells.get x = unlistedByte then m.get x else cells.get x := by
  induction cells generalizing m lo with
  | nil => rfl
  | cons c cells ih =>
    simp only [Memory.wfAbove, Bool.and_eq_true, decide_eq_true_eq] at hwf
    simp only [Memory.below, List.all_cons, Bool.and_eq_true, decide_eq_true_eq] at hbelow
    obtain ⟨⟨-, hbyte⟩, hrest⟩ := hwf
    obtain ⟨hlt, hrestBelow⟩ := hbelow
    rw [List.foldl_cons, if_pos hlt, ih (Memory.set_wf hm) hrest hrestBelow, Memory.get_set hm, Memory.get]
    by_cases hx : x = c.1
    · have hunlisted : Memory.get cells x = unlistedByte := Memory.get_of_wfAbove hrest (by omega)
      rw [if_pos hunlisted, if_pos hx, if_pos hx.symm, if_neg hbyte]
    · rw [if_neg hx, if_neg (Ne.symm hx)]

/-- A canonical list of cells inside the bound is the memory that it makes. -/
theorem ofCells_of_wf {size : Nat} {cells : Memory} (hwf : cells.wf = true) (hbelow : cells.below size = true) :
    Memory.ofCells size cells = cells := by
  refine Memory.ext (Memory.ofCells_wf cells).1 hwf fun x => ?_
  rw [Memory.ofCells, get_foldl_set rfl hwf hbelow]
  split
  case isTrue h => exact h.symm
  case isFalse => rfl

end Sys2Proof.Laws.HostPort

open Sys2Proof Sys2Proof.Machine Sys2Proof.Laws.CipherEngine Sys2Proof.Laws.Registers Sys2Proof.Laws.StepWrites
open Sys2Proof.Laws.HostPort

/-- Settles O5: a legal word runs its command in every phase, and a 32-bit word is itself modulo `2^32`. -/
theorem stepRunsTheDecodedCommand : Obligations.StepRunsTheDecodedCommand := by
  unfold Obligations.StepRunsTheDecodedCommand
  have hstep (s : State) (w : Word) (rest : List Transaction) (i : Instr) (hinbox : s.inbox = .command w :: rest)
      (hi : decode w = .ok i) : step s = exec i (s.taking rest) := by
    rw [step_command hinbox, hostCommand_of_decode_ok hi]
  refine ⟨hstep, fun s w i hi => hstep (s.withFetchWord 32 w.toNat) w s.inbox i ?_ hi⟩
  rw [State.withFetchWord, Nat.mod_eq_of_lt w.isLt, BitVec.ofNat_toNat, BitVec.setWidth_eq]

/-- Settles O6: outside `Rejected` the word is decoded, and a word that does not decode raises. -/
theorem illegalWordRaisesIllegalCommand : Obligations.IllegalWordRaisesIllegalCommand := by
  unfold Obligations.IllegalWordRaisesIllegalCommand
  intro s w rest e hinbox hp he
  rw [step_command hinbox]
  exact hostCommand_of_decode_error (s := s.taking rest) hp he

/-- Settles O9: one rule for each kind of register, read back by the laws of the registers. -/
theorem hostWriteRegFollowsItsRule : Obligations.HostWriteRegFollowsItsRule := by
  unfold Obligations.HostWriteRegFollowsItsRule
  intro s rest hp
  have hp' : (s.taking rest).phase ≠ .rejected := hp
  refine ⟨fun d v hd hv h => ?_, fun v h => ?_, fun i v h => ?_, fun v h => ?_, fun r v hr h => ?_, fun v h => ?_,
    fun r v hr h => ?_, fun k v h => step_writeReg_slot h, fun w h => ?_⟩
  · refine ⟨putData d v (s.taking rest), ?_, readData_putData_same hv, putData_valid,
      fun d' => readData_putData_of_ne, putData_frame_of_ne_sig hd v _⟩
    rw [step_writeReg h (takesBytes_data hv), hostWriteReg_data hp' hd]
  · rw [step_writeReg h rfl]
    exact if_neg hp
  · refine ⟨writeA i (BitVec.ofNat 32 v) (s.taking rest), ?_, ?_, fun j hj => readA_writeA_of_ne hj _ _,
      writeA_frame i _ _⟩
    · rw [step_setReg h rfl, hostSetReg_a hp']
    · rw [readA_writeA_same, BitVec.toNat_ofNat]
  · rw [step_setReg h rfl, hostSetReg_contbase hp', ofNat_mod_two_pow]
  · obtain ⟨⟨htakes, hignored⟩, -⟩ := readOnly_ignores hr
    rw [step_setReg h htakes, hignored]
  · rw [step_setReg h rfl]
    rfl
  · obtain ⟨-, hbytes⟩ := readOnly_ignores hr
    obtain ⟨htakes, hignored⟩ := hbytes v
    rw [step_writeReg h htakes, hignored]
  · rw [step_setReg h rfl, step_command (s := { s with inbox := .command w :: rest }) rfl, hostSetReg,
      BitVec.ofNat_toNat, BitVec.setWidth_eq]
    rfl

/-- Settles O10: one rule for each store and for each error; the stored bytes are read back by the laws of the slots and
of the memories. -/
theorem hostStoresFollowTheirRules : Obligations.HostStoresFollowTheirRules := by
  unfold Obligations.HostStoresFollowTheirRules
  intro s rest hp
  have hp' : (s.taking rest).phase ≠ .rejected := hp
  refine ⟨fun k v hv hl h => ⟨writeSlot k v s.ks, ?_, slotBytes_writeSlot_same hv, fun k' => slotBytes_writeSlot_of_ne⟩,
    fun k v hv hl h => ?_, fun off v hle ht h => ⟨_, ?_, stores_write ht rfl⟩, fun off v hlt h => ?_,
    fun addr v hfits hm h => ⟨_, ?_, stores_write hm rfl⟩, fun addr v hfits h => ?_⟩
  · rw [step_writeKey h hv]
    exact hostWriteKey_of_unlocked hp' hl
  · rw [step_writeKey h hv]
    exact hostWriteKey_of_locked hp' hl
  · rw [step_of_wf h rfl]
    exact hostWriteTbl_of_le hp' hle
  · rw [step_of_wf h rfl]
    exact hostWriteTbl_of_lt hp' hlt
  · rw [step_of_wf h rfl]
    exact hostWriteMem_of_fits hp' hfits
  · rw [step_of_wf h rfl]
    exact hostWriteMem_of_not_fits hp' hfits

/-- Settles O11: a register read answers `regValue`, which is written out; a bounded read answers the bytes or, out of
range, zeros and its error. -/
theorem hostReadsReturnTheState : Obligations.HostReadsReturnTheState := by
  unfold Obligations.HostReadsReturnTheState
  refine ⟨fun s rest r v h hv => ?_, fun s => ?_, rfl, fun s => ⟨fun _ => rfl, rfl, rfl, rfl, rfl⟩,
    fun s => ⟨fun _ => rfl, rfl, rfl, rfl, rfl, rfl, rfl, rfl, rfl, rfl, rfl, rfl⟩, fun s d hs hbit => ?_,
    fun s rest addr n hfits h => ?_, fun s rest off n hle h => ?_, fun s rest addr n hrange => ?_⟩
  · rw [step_readReg h (readable_of_regValue hv)]
    exact hostReadReg_of_regValue (s := s.taking rest) (by cases r <;> exact hv)
  · obtain ⟨hphase, hlock, hhigh⟩ := statusWord_fields s
    exact ⟨rfl, rfl, hphase, hlock, hhigh, rfl, rfl, rfl, rfl, rfl⟩
  · obtain ⟨hdata, -⟩ := Laws.Invariants.invalidIsZero_iff.mp hs
    rw [regValue, hdata d hbit]
  · rw [step_of_wf h rfl]
    exact ⟨_, hostReadRange_of_le hfits, Memory.read_length, fun k hk => Memory.read_getD hk⟩
  · rw [step_of_wf h rfl]
    exact ⟨_, hostReadRange_of_le hle, Memory.read_length, fun k hk => Memory.read_getD hk⟩
  · rcases hrange with ⟨hfits, h⟩ | ⟨hlt, h⟩ <;> rw [step_of_wf h rfl]
    · exact hostReadRange_of_lt (s := s.taking rest) (Nat.lt_of_not_le hfits)
    · exact hostReadRange_of_lt (s := s.taking rest) hlt

/-- Settles O12: each bit of the mask is read off its two parts. -/
theorem needMaskBits : Obligations.NeedMaskBits := by
  unfold Obligations.NeedMaskBits
  refine fun names ks s => ⟨fun n hn => ?_, ?_, fun n hn h31 => ?_⟩ <;> rw [getLsbD_missing]
  · simp [hn, show n ≠ 31 by omega]
  · simp
  · simp [h31, Nat.not_lt.mpr hn]

/-- Settles O14: one case split for each of the three answers in `Rejected`, of which only the last leaves it. -/
theorem rejectedIgnoresAllButReadsClearReset : Obligations.RejectedIgnoresAllButReadsClearReset := by
  unfold Obligations.RejectedIgnoresAllButReadsClearReset
  intro s x rest hp hinbox hwf
  have hp' : (s.taking rest).phase = .rejected := hp
  rw [step_of_wf hinbox hwf]
  refine ⟨perform_of_rejected hp' hwf, perform_read_of_rejected hp' hwf, perform_clear_of_rejected hp',
    fun t ht hleft => ?_⟩
  by_contra hother
  obtain ⟨hclear, hreset⟩ : isClear x = false ∧ isReset x = false := by simpa using hother
  cases hread : isRead x with
  | false =>
    rw [perform_of_rejected hp' hwf hread hclear hreset] at ht
    cases ht
    exact hleft hp
  | true =>
    obtain ⟨r, hr⟩ := perform_read_of_rejected hp' hwf hread
    rw [hr] at ht
    cases ht
    exact hleft hp

/-- Settles O16: reset answers `resetWith`, whose fields stand in its own lemmas, on the contents given. -/
theorem resetLeavesTheStatedValues : Obligations.ResetLeavesTheStatedValues := by
  unfold Obligations.ResetLeavesTheStatedValues
  intro s rest contents hinbox hwf hbelow
  refine ⟨resetEvent contents (s.taking rest), step_of_wf hinbox rfl, fun i => ?_, rfl, rfl, rfl, rfl,
    fun d => ?_, rfl, rfl, rfl, rfl, fun _ => rfl, ofCells_of_wf hwf hbelow, rfl, rfl⟩
  · fin_cases i <;> rfl
  · exact Laws.Invariants.readData_resetWith d s.params (Memory.ofCells s.params.memSize.val contents)

end

section
/-! What the cipher functions and the signatures do not see, and what they always see: the parity bits of a DES key
(spec/40_des_block.md section 6), the place where a CBC stream is split (spec/41_cipher_engine.md R139), the order of
the units under the XOR-fold, and one changed unit (spec/43_signature_engine.md R179). -/

namespace Sys2Proof.Laws.Sensitivity

open Sys2Proof Sys2Proof.Machine Sys2Proof.Laws.Des Sys2Proof.Laws.Cipher Sys2Proof.Laws.CipherEngine
open Sys2Proof.Laws.SignatureEngine

/-! ## The parity bits (R121) -/

/-- A permutation sees only the bits that its table lists. -/
theorem permute_congr {n m : Nat} {t : List Nat} {x y : BitVec n} (h : ∀ j ∈ t, desBit x j = desBit y j) :
    permute m t x = permute m t y := by
  rw [permute, permute, List.map_congr_left h]

/-- `PC1` lists no bit that is the least significant of its byte. -/
theorem tablePC1_skips_parity : ∀ j ∈ tablePC1, (0xFEFEFEFEFEFEFEFE : Block).getLsbD (64 - j) = true := by decide

theorem roundKeys_congr {k k' : Block} (h : k &&& 0xFEFEFEFEFEFEFEFE = k' &&& 0xFEFEFEFEFEFEFEFE) :
    roundKeys k = roundKeys k' := by
  have hhalves : permute 56 tablePC1 k = permute 56 tablePC1 k' := by
    refine permute_congr fun j hj => ?_
    have hbit := congrArg (·.getLsbD (64 - j)) h
    simpa only [desBit, BitVec.getLsbD_and, tablePC1_skips_parity j hj, Bool.and_true] using hbit
  rw [roundKeys, roundKeys, hhalves]

/-! ## Streams of units (R133, R134, R139) -/

/-- The units of a byte string that starts with whole units. -/
theorem blocksOf_bytesOfBlocks_append (us : List Block) (rest : Bytes) :
    blocksOf (bytesOfBlocks us ++ rest) = us ++ blocksOf rest := by
  induction us with
  | nil => rfl
  | cons u us ih => rw [bytesOfBlocks, List.append_assoc, bytesOf_eight_append, ih, List.cons_append]

theorem blocksOf_append {a : Bytes} (ha : a.length % 8 = 0) (b : Bytes) :
    blocksOf (a ++ b) = blocksOf a ++ blocksOf b := by
  rw [← blocksOf_bytesOfBlocks_append, bytesOfBlocks_blocksOf_of_mod ha]

/-- The units after the first ones are chained to the last ciphertext unit, or to the IV where there is none. -/
theorem cbcEncBlocks_append (k : CipherKey) (iv : Block) (as bs : List Block) :
    cbcEncBlocks k iv (as ++ bs) =
      cbcEncBlocks k iv as ++ cbcEncBlocks k ((cbcEncBlocks k iv as).getLastD iv) bs := by
  induction as generalizing iv with
  | nil => rfl
  | cons a as ih => rw [List.cons_append, cbcEncBlocks, cbcEncBlocks, ih, List.getLastD_cons, List.cons_append]

theorem cbcDecBlocks_append (k : CipherKey) (iv : Block) (as bs : List Block) :
    cbcDecBlocks k iv (as ++ bs) = cbcDecBlocks k iv as ++ cbcDecBlocks k (as.getLastD iv) bs := by
  induction as generalizing iv with
  | nil => rfl
  | cons a as ih => rw [List.cons_append, cbcDecBlocks, cbcDecBlocks, ih, List.getLastD_cons, List.cons_append]

/-- The last of some units is their last 8 bytes, whatever stands for the last of none. -/
theorem getLastD_eq_lastEight {bs : List Block} (h : bs ≠ []) (d : Block) :
    bs.getLastD d = lastEight (bytesOfBlocks bs) := by
  rw [lastEight_bytesOfBlocks h, lastBlock]
  obtain ⟨init, b, rfl⟩ := (List.eq_nil_or_concat' bs).resolve_left h
  rw [List.getLastD_concat, List.getLastD_concat]

theorem blocksOf_ne_nil {a : Bytes} (ha : a.length % 8 = 0) (hne : a ≠ []) : blocksOf a ≠ [] := by
  intro h
  have hbytes := bytesOfBlocks_blocksOf_of_mod ha
  rw [h] at hbytes
  exact hne hbytes.symm

theorem cbcEnc_append (k : CipherKey) (iv : Block) {a : Bytes} (ha : a.length % 8 = 0) (hne : a ≠ []) (b : Bytes) :
    cbcEnc k iv (a ++ b) = cbcEnc k iv a ++ cbcEnc k (lastEight (cbcEnc k iv a)) b := by
  have hsome : cbcEncBlocks k iv (blocksOf a) ≠ [] := by
    rw [← List.length_pos_iff, cbcEncBlocks_length, List.length_pos_iff]
    exact blocksOf_ne_nil ha hne
  simp only [cbcEnc, blocksOf_append ha, cbcEncBlocks_append, bytesOfBlocks_append, getLastD_eq_lastEight hsome]

theorem cbcDec_append (k : CipherKey) (iv : Block) {a : Bytes} (ha : a.length % 8 = 0) (hne : a ≠ []) (b : Bytes) :
    cbcDec k iv (a ++ b) = cbcDec k iv a ++ cbcDec k (lastEight a) b := by
  simp only [cbcDec, blocksOf_append ha, cbcDecBlocks_append, bytesOfBlocks_append,
    getLastD_eq_lastEight (blocksOf_ne_nil ha hne), bytesOfBlocks_blocksOf_of_mod ha]

/-! ## The fold signatures (R166, R167, R179) -/

theorem blockEnc_injective (k : CipherKey) : Function.Injective (blockEnc k) :=
  Function.LeftInverse.injective (blockDec_blockEnc k)

theorem desEnc_injective (k : Block) : Function.Injective (desEnc k) :=
  Function.LeftInverse.injective (desDec_desEnc k)

theorem desDec_injective (k : Block) : Function.Injective (desDec k) :=
  Function.LeftInverse.injective (desEnc_desDec k)

theorem fold_bytesOfBlocks (d : Block) (us : List Block) :
    fold d (bytesOfBlocks us) = us.foldl (fun acc u => acc ^^^ u) d := by
  rw [fold, blocksOf_bytesOfBlocks]

theorem fold_perm (d : Block) {us vs : List Block} (h : us.Perm vs) :
    fold d (bytesOfBlocks us) = fold d (bytesOfBlocks vs) := by
  rw [fold_bytesOfBlocks, fold_bytesOfBlocks]
  exact h.foldl_eq' (fun u _ v _ acc => by rw [BitVec.xor_assoc, BitVec.xor_comm u v, ← BitVec.xor_assoc]) d

theorem foldSig_inj {ks : KeyStore} {m m' : Bytes} : foldSig ks m = foldSig ks m' ↔ fold 0 m = fold 0 m' :=
  (blockEnc_injective (combinedKey ks)).eq_iff

theorem tableSig_inj {ks : KeyStore} {kbit kc : BitVec 128} {m m' : Bytes} :
    tableSig ks kbit kc m = tableSig ks kbit kc m' ↔ fold 0 m = fold 0 m' := by
  rw [tableSig, tableSig, (blockEnc_injective (combinedKey ks)).eq_iff, fold_eq_xor, fold_eq_xor _ m',
    BitVec.xor_right_inj]

/-! ## One changed unit (R165, R179) -/

/-- `m'` is `m` with one unit replaced by another one. -/
def UnitChange (m m' : Bytes) : Prop :=
  ∃ pre post u v, u ≠ v ∧ m = bytesOfBlocks (pre ++ u :: post) ∧ m' = bytesOfBlocks (pre ++ v :: post)

/-- The last ciphertext unit of CBC as a walk over the message. -/
theorem getLastD_cbcEncBlocks (k : CipherKey) (iv : Block) (bs : List Block) :
    (cbcEncBlocks k iv bs).getLastD iv = bs.foldl (fun c b => blockEnc k (b ^^^ c)) iv := by
  induction bs generalizing iv with
  | nil => rfl
  | cons b bs ih => rw [cbcEncBlocks, List.getLastD_cons, ih, List.foldl_cons]

/-- Two different chaining values never meet again on the same units. -/
theorem foldl_blockEnc_injective (k : CipherKey) (bs : List Block) :
    Function.Injective fun c => bs.foldl (fun c b => blockEnc k (b ^^^ c)) c := by
  induction bs with
  | nil => exact fun _ _ h => h
  | cons b bs ih => exact fun c c' h => (BitVec.xor_right_inj b).mp (blockEnc_injective k (ih h))

theorem mac3_bytesOfBlocks (ks : KeyStore) (us : List Block) :
    mac3 ks (bytesOfBlocks us) = desEnc ks.sigMaster (desDec ks.sigHash
      (us.foldl (fun c b => blockEnc (.one ks.sigMaster) (b ^^^ c)) 0)) := by
  rw [mac3, blocksOf_bytesOfBlocks, lastBlock, getLastD_cbcEncBlocks]

theorem mac3_ne_of_unitChange (ks : KeyStore) {m m' : Bytes} (h : UnitChange m m') : mac3 ks m ≠ mac3 ks m' := by
  obtain ⟨pre, post, u, v, huv, rfl, rfl⟩ := h
  intro heq
  rw [mac3_bytesOfBlocks, mac3_bytesOfBlocks] at heq
  have hlast := desDec_injective _ (desEnc_injective _ heq)
  rw [List.foldl_append, List.foldl_append, List.foldl_cons, List.foldl_cons] at hlast
  have hunit := blockEnc_injective _ (foldl_blockEnc_injective _ post hlast)
  exact huv ((BitVec.xor_left_inj _).mp hunit)

/-- The fold takes in every unit by XOR, so one changed unit changes it. -/
theorem foldSig_ne_of_unitChange (ks : KeyStore) {m m' : Bytes} (h : UnitChange m m') :
    foldSig ks m ≠ foldSig ks m' := by
  obtain ⟨pre, post, u, v, huv, rfl, rfl⟩ := h
  rw [Ne, foldSig_inj, fold_perm 0 List.perm_middle, fold_perm 0 (List.perm_middle (a := v)), bytesOfBlocks,
    bytesOfBlocks]
  simp only [fold, bytesOf_eight_append, List.foldl_cons]
  rw [← fold, ← fold, fold_eq_xor, fold_eq_xor (0 ^^^ v), BitVec.xor_left_inj, BitVec.xor_right_inj]
  exact huv

end Sys2Proof.Laws.Sensitivity

open Sys2Proof Sys2Proof.Machine Sys2Proof.Laws.Sensitivity

/-- Settles O45: the key schedule starts from `PC1`, which lists no parity bit. -/
theorem desIgnoresKeyParityBits : Obligations.DesIgnoresKeyParityBits := by
  unfold Obligations.DesIgnoresKeyParityBits
  intro k k' b h
  rw [desEnc, desEnc, desDec, desDec, roundKeys_congr h]
  exact ⟨rfl, rfl⟩

/-- Settles O48: the units after the first piece are chained to its last ciphertext unit. -/
theorem cbcStreamCanBeSplit : Obligations.CbcStreamCanBeSplit := by
  unfold Obligations.CbcStreamCanBeSplit
  exact fun k iv a b ha _ hne => ⟨cbcEnc_append k iv ha hne b, cbcDec_append k iv ha hne b⟩

/-- Settles O50: XOR is commutative, and what follows the fold is invertible. -/
theorem foldSignatureSeesOnlyTheXor : Obligations.FoldSignatureSeesOnlyTheXor := by
  unfold Obligations.FoldSignatureSeesOnlyTheXor
  exact ⟨fun d us vs => fold_perm d, fun ks m m' => foldSig_inj, fun ks kbit kc m m' => tableSig_inj⟩

/-- Settles O51: the chaining values differ after the changed unit, and an invertible step keeps them different. -/
theorem mac3SeesEveryOneUnitChange : Obligations.Mac3SeesEveryOneUnitChange := by
  unfold Obligations.Mac3SeesEveryOneUnitChange
  exact fun ks pre post u v huv => mac3_ne_of_unitChange ks ⟨pre, post, u, v, huv, rfl, rfl⟩

end

section
/-! Round trips over commands: `TABLE_ENC` and `TABLE_DEC`, `CONTENT_ENC` and `CONTENT_DEC`
(spec/45_table_content_pipeline.md R217, R222). -/

namespace Sys2Proof.Laws.RoundTrips

open Sys2Proof Sys2Proof.Machine Sys2Proof.Laws.Cipher Sys2Proof.Laws.CipherEngine Sys2Proof.Laws.KeyPipeline
open Sys2Proof.Laws.SignatureEngine Sys2Proof.Laws.LoadSave Sys2Proof.Laws.TableContent
open Sys2Proof.Laws.TableEncryption

/-! ## What the proofs of round trips share -/

theorem execAll_cons {i : Instr} {is : List Instr} {s t : State} (h : exec i s = .next t) :
    execAll (i :: is) s = execAll is t := by
  rw [execAll, h]

/-- A state that is ready for some registers is ready for fewer of them. -/
theorem ready_mono {names names' : BitVec 12} {ks ks' : Bool} {s : State} (hr : Ready names ks s)
    (hnames : names &&& names' = names') (hks : ks' = true → ks = true) : Ready names' ks' s := by
  obtain ⟨hp, hvalid, hlock⟩ := hr
  refine ⟨hp, ?_, fun h => hlock (hks h)⟩
  rw [← hnames, ← BitVec.and_assoc, hvalid]

/-- `need` looks at `PHASE`, `VALID` and `KSLOCK` alone. -/
theorem ready_congr {names : BitVec 12} {ks : Bool} {s t : State} (hr : Ready names ks s) (hp : t.phase = s.phase)
    (hvalid : t.valid = s.valid) (hlock : t.kslock = s.kslock) : Ready names ks t := by
  rw [Ready, hp, hvalid, hlock]
  exact hr

theorem read_write_same {m : Memory} {a : Nat} {v : Bytes} (hm : m.wf = true) : (m.write a v).read a v.length = v :=
  read_eq_of_get fun k hk => by rw [Memory.get_write hm, if_pos (by omega), Nat.add_sub_cancel_left]

/-- Writing what stood there before undoes a write. -/
theorem write_write_read {m : Memory} {a : Nat} {v : Bytes} (hm : m.wf = true) :
    (m.write a v).write a (m.read a v.length) = m := by
  refine Memory.ext (Memory.write_wf (Memory.write_wf hm)) hm fun x => ?_
  rw [Memory.get_write (Memory.write_wf hm), Memory.get_write hm, Memory.read_length]
  split
  case isTrue hx => rw [Memory.read_getD (by omega), Nat.add_sub_cancel' hx.1]
  case isFalse => rfl

/-! ## The table (R216, R217) -/

theorem tableBytes_mod (t : Memory) : tableBytes t % 8 = 0 := by
  rw [tableBytes, tableBytesOf, Config.block]
  omega

theorem tableBytes_le {t : Memory} (hc : tCount t ≤ 256) : tableBytes t ≤ 4104 := by
  rw [tableBytes, tableBytesOf, Config.block]
  omega

section
variable {s u : State}

/-- Under the same key, decrypting a table that `TABLE_ENC` or `SV_SEAL` has encrypted gives the plain bytes. -/
theorem decryptedTable_encryptedTable (ht : s.tbl.wf = true) (hkbit : u.kbit = s.kbit) (hks : u.ks = s.ks)
    (htbl : u.tbl = encryptedTable s) :
    decryptedTable u (tableBytes s.tbl) = s.tbl.read 0 (tableBytes s.tbl) := by
  have hread : (encryptedTable s).read 0 (tableBytes s.tbl) =
      cbcEnc (twoKey s.kbit) s.ks.tableIv (s.tbl.read 0 (tableBytes s.tbl)) := by
    have hwritten := read_write_same (a := 0)
      (v := cbcEnc (twoKey s.kbit) s.ks.tableIv (s.tbl.read 0 (tableBytes s.tbl))) ht
    rwa [cbcEnc_table_length] at hwritten
  rw [decryptedTable, hkbit, hks, htbl, hread, cbcDec_cbcEnc _ _ (by rw [Memory.read_length, tableBytes_mod])]

theorem loadedTable_encryptedTable (ht : s.tbl.wf = true) (hkbit : u.kbit = s.kbit) (hks : u.ks = s.ks)
    (htbl : u.tbl = encryptedTable s) : loadedTable u (tableBytes s.tbl) = s.tbl := by
  rw [loadedTable, decryptedTable_encryptedTable ht hkbit hks htbl, htbl, encryptedTable]
  have hback := write_write_read (a := 0)
    (v := cbcEnc (twoKey s.kbit) s.ks.tableIv (s.tbl.read 0 (tableBytes s.tbl))) ht
  rwa [cbcEnc_table_length] at hback

end

/-! ## The content (R218, R222) -/

section
variable {f g : CipherKey → Block → Bytes → Bytes} {s u : State} {m : Memory}

/-- The walk with the inverse cipher function takes MEM back: each block is deciphered from the bytes that the first
walk has stored for it, and no other byte changes in either walk. -/
theorem foldl_cipherBlock_inverse {k : CipherKey} (hf : ∀ k iv v, v.length % 8 = 0 → (f k iv v).length = v.length)
    (hg : ∀ k iv v, v.length % 8 = 0 → (g k iv v).length = v.length)
    (hinv : ∀ k iv v, v.length % 8 = 0 → g k iv (f k iv v) = v) (hm : s.mem.wf = true)
    (h8 : ∀ i ∈ encryptedBlocks s.tbl, dSize s.tbl i % 8 = 0) :
    (encryptedBlocks s.tbl).foldl (cipherBlock g k s) ((encryptedBlocks s.tbl).foldl (cipherBlock f k s) s.mem) =
      s.mem := by
  obtain ⟨hwf, hstored, hframe⟩ := foldl_cipherBlock_get (f := f) (k := k) (hf k _) hm h8
  generalize (encryptedBlocks s.tbl).foldl (cipherBlock f k s) s.mem = m at hwf hstored hframe ⊢
  obtain ⟨hwf', hstored', hframe'⟩ :=
    foldl_cipherBlock_get (s := { s with mem := m }) (f := g) (k := k) (hg k _) hwf h8
  refine Memory.ext hwf' hm fun x => ?_
  by_cases hx : ∃ j < tCount s.tbl, isEncrypted s.tbl j = true ∧ s.contbase.toNat + blockOffset s.tbl j ≤ x ∧
      x < s.contbase.toNat + blockOffset s.tbl j + dSize s.tbl j
  · obtain ⟨j, hj, he, hlo, hhi⟩ := hx
    obtain ⟨b, rfl⟩ := Nat.exists_eq_add_of_le hlo
    have hb : b < dSize s.tbl j := by omega
    have hunits : (blockData s j).length % 8 = 0 := by
      rw [blockData, Memory.read_length, h8 j (mem_encryptedBlocks.mpr ⟨hj, he⟩)]
    have hlen : (f k s.ks.contentIv (blockData s j)).length = dSize s.tbl j := by
      rw [hf _ _ _ hunits, blockData, Memory.read_length]
    have hdata : blockData { s with mem := m } j = f k s.ks.contentIv (blockData s j) := by
      rw [blockData, ← hlen]
      exact read_eq_of_get fun b hb => hstored j hj he b (hlen ▸ hb)
    calc _ = (g k s.ks.contentIv (blockData { s with mem := m } j)).getD b 0 := hstored' j hj he b hb
      _ = (blockData s j).getD b 0 := by rw [hdata, hinv _ _ _ hunits]
      _ = _ := Memory.read_getD hb
  · have hout : ∀ j < tCount s.tbl, isEncrypted s.tbl j = true → ¬ (s.contbase.toNat + blockOffset s.tbl j ≤ x ∧
        x < s.contbase.toNat + blockOffset s.tbl j + dSize s.tbl j) :=
      fun j hj he hin => hx ⟨j, hj, he, hin⟩
    exact (hframe' x hout).trans (hframe x hout)

/-- Everything that `ContentCipher` reads besides MEM is the same in two states. -/
structure SameContent (s u : State) : Prop where
  tbl : u.tbl = s.tbl
  contbase : u.contbase = s.contbase
  params : u.params = s.params
  hdr : u.hdr = s.hdr
  kc : u.kc = s.kc
  ks : u.ks = s.ks

theorem contentCipher_congr (hsame : SameContent s u) (hmem : u.mem = m) :
    contentCipher f u = contentCipher f { s with mem := m } := by
  obtain ⟨htbl, hbase, hparams, hhdr, hkc, hks⟩ := hsame
  have hwalk (k : CipherKey) : cipherBlock f k u = cipherBlock f k { s with mem := m } := by
    funext m' i
    simp only [cipherBlock, hbase, htbl, hks]
  simp only [contentCipher, contentInRange, htbl, hbase, hparams, hhdr, hkc, hmem, hwalk]

/-- Where `ContentCipher` passes its checks with one cipher function, it does so with another one on the MEM that the
first has left, and gives the MEM from before back when the second function undoes the first (R222). -/
theorem contentCipher_inverse (hf : ∀ k iv v, v.length % 8 = 0 → (f k iv v).length = v.length)
    (hg : ∀ k iv v, v.length % 8 = 0 → (g k iv v).length = v.length)
    (hinv : ∀ k iv v, v.length % 8 = 0 → g k iv (f k iv v) = v) (hm : s.mem.wf = true)
    (hok : contentCipher f s = .ok m) : contentCipher g { s with mem := m } = .ok s.mem := by
  obtain ⟨hc, hfits, hwalk⟩ := contentCipher_ok hok
  rcases hwalk with ⟨hnone, rfl⟩ | ⟨hsome, h8, k, hk, hwalk⟩
  · exact contentCipher_of_plain hc hfits hnone
  · have haligned : firstMisaligned s.tbl = none :=
      firstMisaligned_eq_none fun j hj he => h8 j (mem_encryptedBlocks.mpr ⟨hj, he⟩)
    have hback : (encryptedBlocks s.tbl).foldl (cipherBlock g k s) m = s.mem := by
      rw [hwalk, foldl_cipherBlock_inverse hf hg hinv hm h8]
    rw [← hback]
    exact contentCipher_of_ok (s := { s with mem := m }) hc hfits hsome (selectKey_eq_some.mpr hk) haligned

/-- Where the checks of `ContentCipher` pass, it answers a MEM (R218). -/
theorem exists_contentCipher_ok (hc : tCount s.tbl ≤ 256) (hfits : Fits s s.contbase.toNat (totalSize s.tbl))
    (hblocks : ∀ j < tCount s.tbl, isEncrypted s.tbl j = true → dSize s.tbl j % 8 = 0 ∧ contentKn s.hdr ≠ 0) :
    ∃ m, contentCipher f s = .ok m := by
  by_cases hnone : encryptedBlocks s.tbl = []
  · exact ⟨_, contentCipher_of_plain hc hfits hnone⟩
  · obtain ⟨j, hj⟩ := List.exists_mem_of_ne_nil _ hnone
    obtain ⟨hlt, he⟩ := mem_encryptedBlocks.mp hj
    obtain ⟨k, hk⟩ := exists_contentKey (keys := s.kc ++ s.params.contentK3) (hblocks j hlt he).2
    exact ⟨_, contentCipher_of_ok hc hfits hnone hk (firstMisaligned_eq_none fun i hi hie => (hblocks i hi hie).1)⟩

/-- Two content commands in a row restore the state when the second cipher function undoes the first. -/
theorem execAll_content_inverse {i j : Instr}
    (hi : ∀ s, exec i s = afterNeed (vHdr ||| vKc ||| vTbl) (cipherContent f fun t => t) s)
    (hj : ∀ s, exec j s = afterNeed (vHdr ||| vKc ||| vTbl) (cipherContent g fun t => t) s)
    (hf : ∀ k iv v, v.length % 8 = 0 → (f k iv v).length = v.length)
    (hg : ∀ k iv v, v.length % 8 = 0 → (g k iv v).length = v.length)
    (hinv : ∀ k iv v, v.length % 8 = 0 → g k iv (f k iv v) = v) (hr : Ready (vHdr ||| vKc ||| vTbl) true s)
    (hm : s.mem.wf = true) (hok : contentCipher f s = .ok m) : execAll [i, j] s = .next s := by
  have hfirst : exec i s = .next { s with mem := m } := by
    rw [hi, afterNeed_of_ready hr, cipherContent_of_ok hok]
  have hsecond : exec j { s with mem := m } = .next s := by
    rw [hj, afterNeed_of_ready (s := { s with mem := m }) hr,
      cipherContent_of_ok (contentCipher_inverse hf hg hinv hm hok)]
  rw [execAll_cons hfirst, execAll_cons hsecond, execAll]

end

end Sys2Proof.Laws.RoundTrips

open Sys2Proof Sys2Proof.Machine Sys2Proof.Laws.Cipher Sys2Proof.Laws.SignatureEngine Sys2Proof.Laws.LoadSave
open Sys2Proof.Laws.TableContent Sys2Proof.Laws.TableEncryption Sys2Proof.Laws.RoundTrips

/-- Settles O52: the first command leaves the keys and `A[2]`, so the second decrypts what the first has stored. -/
theorem tableEncThenDecRestores : Obligations.TableEncThenDecRestores := by
  unfold Obligations.TableEncThenDecRestores
  intro s hr hc ha2 ht
  obtain ⟨m, htable⟩ : ∃ m, encryptedTable s = m := ⟨_, rfl⟩
  have henc : exec .tableEnc s = .next { s with tbl := m } := by
    rw [exec_tableEnc, afterNeed_afterCount_of_le hr hc, htable]
  have hload : loadedTable { s with tbl := m } s.a2.toNat = s.tbl := by
    rw [ha2]
    exact loadedTable_encryptedTable ht rfl rfl htable.symm
  have hdec : exec .tableDec { s with tbl := m } = .next s := by
    rw [exec_tableDec, afterNeed_of_ready (s := { s with tbl := m }) hr,
      decryptTable_of_ok (s := { s with tbl := m }) (ha2 ▸ tableBytes_le hc) (ha2 ▸ tableBytes_mod s.tbl), hload]
  rw [execAll_cons henc, execAll_cons hdec, execAll]

/-- Settles O53: either cipher function undoes the other on whole units, and the blocks do not meet. -/
theorem contentEncAndDecRestore : Obligations.ContentEncAndDecRestore := by
  unfold Obligations.ContentEncAndDecRestore
  intro s hr hm hc hfits hblocks
  obtain ⟨m, henc⟩ := exists_contentCipher_ok (f := cbcEnc) hc hfits hblocks
  obtain ⟨m', hdec⟩ := exists_contentCipher_ok (f := cbcDec) hc hfits hblocks
  exact ⟨execAll_content_inverse exec_contentEnc exec_contentDec (fun _ _ _ => cbcEnc_length)
      (fun _ _ _ => cbcDec_length) (fun k iv _ => cbcDec_cbcEnc k iv) hr hm henc,
    execAll_content_inverse exec_contentDec exec_contentEnc (fun _ _ _ => cbcDec_length)
      (fun _ _ _ => cbcEnc_length) (fun k iv _ => cbcEnc_cbcDec k iv) hr hm hdec⟩

end

section
/-! A container that is signed, encrypted and sealed loads back (spec/44_load_save_sequencer.md R199, R203): what
signing leaves of the table, what the registers hold after the save, and each gate on such registers. -/

namespace Sys2Proof.Laws.SaveThenLoad

open Sys2Proof Sys2Proof.Machine Sys2Proof.Laws.Cipher Sys2Proof.Laws.CipherEngine Sys2Proof.Laws.KeyPipeline
open Sys2Proof.Laws.SignatureEngine Sys2Proof.Laws.LoadSave Sys2Proof.Laws.TableEncryption Sys2Proof.Laws.RoundTrips

/-! ## The signed table: nothing but the signature fields has changed (R39, R176) -/

section
variable {s : State}

/-- A signature field starts at a multiple of 16, and not at 0. -/
theorem get_signTable {x : Nat} (ht : s.tbl.wf = true) (hx : x < 16 ∨ 8 ≤ x % 16) :
    (signTable s).get x = s.tbl.get x := by
  obtain ⟨-, -, hframe⟩ := signTable_get ht
  exact hframe x fun i _ _ => by omega

theorem read_signTable {a n : Nat} (ht : s.tbl.wf = true) (hx : ∀ k < n, a + k < 16 ∨ 8 ≤ (a + k) % 16) :
    (signTable s).read a n = s.tbl.read a n :=
  Memory.read_congr fun k hk => get_signTable ht (hx k hk)

theorem tCount_signTable (ht : s.tbl.wf = true) : tCount (signTable s) = tCount s.tbl := by
  rw [tCount, tCount, read_signTable ht fun k hk => by omega]

theorem dSize_signTable (ht : s.tbl.wf = true) : dSize (signTable s) = dSize s.tbl := by
  funext i
  rw [dSize, dSize, read_signTable ht fun k hk => by omega]

theorem dFlags_signTable (ht : s.tbl.wf = true) : dFlags (signTable s) = dFlags s.tbl := by
  funext i
  rw [dFlags, dFlags, read_signTable ht fun k hk => by omega]

theorem isEncrypted_signTable (ht : s.tbl.wf = true) : isEncrypted (signTable s) = isEncrypted s.tbl := by
  funext i
  rw [isEncrypted, isEncrypted, dFlags_signTable ht]

theorem isSigned_signTable (ht : s.tbl.wf = true) : isSigned (signTable s) = isSigned s.tbl := by
  funext i
  rw [isSigned, isSigned, dFlags_signTable ht]

theorem blockLenOk_signTable (ht : s.tbl.wf = true) : blockLenOk (signTable s) = blockLenOk s.tbl := by
  funext i
  rw [blockLenOk, blockLenOk, dSize_signTable ht, isEncrypted_signTable ht]

theorem blockOffset_signTable (ht : s.tbl.wf = true) : blockOffset (signTable s) = blockOffset s.tbl := by
  funext i
  rw [blockOffset, blockOffset, dSize_signTable ht]

theorem totalSize_signTable (ht : s.tbl.wf = true) : totalSize (signTable s) = totalSize s.tbl := by
  rw [totalSize, totalSize, tCount_signTable ht, blockOffset_signTable ht]

theorem tableBytes_signTable (ht : s.tbl.wf = true) : tableBytes (signTable s) = tableBytes s.tbl := by
  rw [tableBytes, tableBytes, tCount_signTable ht]

end

/-! ## The save (R199) -/

/-- What the registers hold after `CONTENT_ENC` and `SV_SEAL` on the state `s` with the plain table `T` in `TBL`: the
container, and everything else as it was. -/
structure Saved (s : State) (T : Memory) (u : State) : Prop where
  ready : Ready (vHdr ||| vHsig ||| vKbit ||| vKc ||| vTsig ||| vRsig ||| vTbl) true u
  phase : u.phase = s.phase
  contbase : u.contbase = s.contbase
  params : u.params = s.params
  hdr : u.hdr = s.hdr
  ks : u.ks = s.ks
  hsig : u.hsig = mac3 s.ks (bytesOf 32 s.hdr)
  tsig : u.tsig = tableSig s.ks s.kbit s.kc (T.read 0 (tableBytes T))
  rsig : u.rsig = rootSig s.ks u.hsig u.tsig T
  kbit : u.kbit = wrap16 (deriveKek s.ks s.hdr) s.kbit
  kc : u.kc = wrap16 (deriveKek s.ks s.hdr) s.kc
  tbl : u.tbl = encryptedTable { s with tbl := T }
  mem : contentCipher cbcEnc { s with tbl := T } = .ok u.mem

/-- When the bits `a` are set, setting the bits `b` makes both set. -/
theorem or_and_or_of_and {v a b : BitVec 12} (h : v &&& a = a) : (v ||| b) &&& (a ||| b) = a ||| b := by
  calc (v ||| b) &&& (a ||| b) = (v &&& a) ||| b := by
        rw [BitVec.or_comm v, BitVec.or_comm a, BitVec.or_comm _ b]
        ext i
        simp only [BitVec.getElem_and, BitVec.getElem_or, Bool.or_and_distrib_left]
    _ = a ||| b := by rw [h]

/-- The valid bits of the container after `SV_SEAL` has set its own. -/
theorem container_valid {v : BitVec 12}
    (h : v &&& (vHdr ||| vKbit ||| vKc ||| vTbl) = vHdr ||| vKbit ||| vKc ||| vTbl) :
    (v ||| 0x072) &&& (vHdr ||| vHsig ||| vKbit ||| vKc ||| vTsig ||| vRsig ||| vTbl) =
      vHdr ||| vHsig ||| vKbit ||| vKc ||| vTsig ||| vRsig ||| vTbl := by
  have hkek : (vHdr ||| vKbit ||| vKc ||| vTbl ||| 0x072) &&&
      (vHdr ||| vHsig ||| vKbit ||| vKc ||| vTsig ||| vRsig ||| vTbl) =
      vHdr ||| vHsig ||| vKbit ||| vKc ||| vTsig ||| vRsig ||| vTbl := by decide
  rw [← hkek, ← BitVec.and_assoc, or_and_or_of_and h]

section
variable {s u : State} {T m : Memory}

theorem saved_sealed (hr : Ready (vHdr ||| vKbit ||| vKc ||| vTbl) true s)
    (hm : contentCipher cbcEnc { s with tbl := T } = .ok m) : Saved s T (sealed { s with tbl := T, mem := m }) := by
  rw [sealed_of_ready (s := { s with tbl := T, mem := m }) hr]
  obtain ⟨hp, hvalid, hlock⟩ := hr
  exact ⟨⟨hp, container_valid hvalid, hlock⟩, rfl, rfl, rfl, rfl, rfl, rfl, rfl, rfl, rfl, rfl,
    by simp only [encryptedTable], hm⟩

/-- `CONTENT_ENC` and `SV_SEAL` pass their checks on a plain table whose content they can encrypt. -/
theorem save_of_plain (hr : Ready (vHdr ||| vKbit ||| vKc ||| vTbl) true s) (hc : tCount T ≤ 256)
    (hm : contentCipher cbcEnc { s with tbl := T } = .ok m) (is : List Instr) :
    execAll (.contentEnc :: .svSeal :: is) { s with tbl := T } =
      execAll is (sealed { s with tbl := T, mem := m }) := by
  have henc : exec .contentEnc { s with tbl := T } = .next { s with tbl := T, mem := m } := by
    rw [exec_contentEnc, afterNeed_of_ready (s := { s with tbl := T }) (ready_mono hr (by decide) id),
      cipherContent_of_ok hm]
  have hseal : exec .svSeal { s with tbl := T, mem := m } = .next (sealed { s with tbl := T, mem := m }) := by
    rw [exec_svSeal, afterNeed_afterCount_of_le (s := { s with tbl := T, mem := m }) hr hc]
  rw [execAll_cons henc, execAll_cons hseal]

/-! ## The load (R203) -/

/-- The registers after `LD_KEYS` on the saved ones: the working keys are unwrapped. -/
def keysLoaded (s u : State) : State :=
  { u with
    kek := deriveKek s.ks s.hdr, kbit := s.kbit, kc := s.kc, valid := u.valid ||| 0x010, phase := .keysUnwrapped }

theorem keysLoaded_ready (h : Saved s T u) :
    Ready (vHdr ||| vHsig ||| vKbit ||| vKc ||| vTsig ||| vRsig ||| vTbl) true (keysLoaded s u) := by
  obtain ⟨-, hvalid, hlock⟩ := h.ready
  refine ⟨nofun, ?_, hlock⟩
  rw [keysLoaded]
  dsimp only
  grind

theorem exec_ldHeader_of_saved (h : Saved s T u) (hp : s.phase = .unloaded) (hflags : hdrFlags s.hdr % 2 = 0)
    (hcount : hdrBitCount s.hdr = 0) : exec .ldHeader u = .next { u with phase := .headerRead } := by
  rw [exec_ldHeader, gateAt_of_ready (h.phase.trans hp) (ready_mono h.ready (by decide) id),
    checkHeader_of_ok (by rwa [h.hdr]) (by rwa [h.hdr]) (by rw [h.ks, h.hdr, h.hsig])]

theorem exec_ldKeys_of_saved (h : Saved s T u) :
    exec .ldKeys { u with phase := .headerRead } = .next (keysLoaded s u) := by
  have hready : Ready (vHdr ||| vKbit ||| vKc) true { u with phase := .headerRead } := by
    obtain ⟨-, hvalid, hlock⟩ := ready_mono h.ready (names' := vHdr ||| vKbit ||| vKc) (by decide) id
    exact ⟨nofun, hvalid, hlock⟩
  rw [exec_ldKeys, gateAt_of_ready rfl hready, unwrapWithHeaderKek_of_ready hready]
  simp only [keysLoaded, h.ks, h.hdr, h.kbit, h.kc, unwrap16_wrap16]

theorem slice_read {a n i k : Nat} (h : i + k ≤ n) : slice (m.read a n) i k = m.read (a + i) k := by
  refine List.ext_getElem (by simp [slice]; omega) fun j _ _ => ?_
  simp [slice, Memory.read, Nat.add_assoc]

/-- `LD_TABLE` on the loaded keys decrypts the table that was sealed, and finds its signatures. -/
theorem exec_ldTable_of_saved (h : Saved s T u) (hT : T.wf = true) (hc : tCount T ≤ 256)
    (hsize : hdrHeaderSize s.hdr = 88 + tableBytes T) :
    exec .ldTable (keysLoaded s u) = .next { keysLoaded s u with tbl := T, phase := .tableVerified } := by
  have hready := keysLoaded_ready h
  have hbytes : tableBytes T = (tCount T * 2 + 1) * 8 := rfl
  have hhdr : (keysLoaded s u).hdr = s.hdr := h.hdr
  have hbudget : hdrHeaderSize (keysLoaded s u).hdr - 88 = tableBytes T := by
    rw [hhdr, hsize]
    omega
  have hload : loadedTable (keysLoaded s u) (tableBytes T) = T :=
    loadedTable_encryptedTable (s := { s with tbl := T }) (u := keysLoaded s u) hT rfl h.ks h.tbl
  have hdecrypted : decryptedTable (keysLoaded s u) (tableBytes T) = T.read 0 (tableBytes T) :=
    decryptedTable_encryptedTable (s := { s with tbl := T }) (u := keysLoaded s u) hT rfl h.ks h.tbl
  have hcount : decryptedCount (keysLoaded s u) (tableBytes T) = tCount T := by
    rw [decryptedCount, hdecrypted, slice_read (by omega), tCount]
  have htsig : tableSig (keysLoaded s u).ks (keysLoaded s u).kbit (keysLoaded s u).kc (T.read 0 (tableBytes T)) =
      (keysLoaded s u).tsig := by
    rw [show (keysLoaded s u).ks = s.ks from h.ks, show (keysLoaded s u).tsig = _ from h.tsig]
    rfl
  have hrsig : rootSig (keysLoaded s u).ks (keysLoaded s u).hsig (keysLoaded s u).tsig T = (keysLoaded s u).rsig := by
    rw [show (keysLoaded s u).ks = s.ks from h.ks, show (keysLoaded s u).rsig = _ from h.rsig]
    rfl
  rw [exec_ldTable, gateAt_of_ready (p := .keysUnwrapped) rfl (ready_mono hready (by decide) id),
    loadWithinBudget_of_ok (by rw [hhdr]; omega) (by rw [hhdr]; omega) (by rw [hbudget, tableBytes_mod]), hbudget,
    loadTable_of_count_ok (ready_mono hready (by decide) nofun) (by rwa [hcount]) (by rw [hcount]; rfl), hload, hcount]
  exact (if_neg (not_not.mpr htsig)).trans (if_neg (not_not.mpr hrsig))

/-- `LD_CONTENT` on the loaded table gives back the content that was encrypted. -/
theorem exec_ldContent_of_saved (h : Saved s T u) (hm : s.mem.wf = true) :
    exec .ldContent { keysLoaded s u with tbl := T, phase := .tableVerified } =
      .next { keysLoaded s u with tbl := T, mem := s.mem, phase := .contentDecrypted } := by
  have hready : Ready (vHdr ||| vKc ||| vTbl) true { keysLoaded s u with tbl := T, phase := .tableVerified } := by
    obtain ⟨-, hvalid, hlock⟩ := ready_mono (keysLoaded_ready h) (names' := vHdr ||| vKc ||| vTbl) (by decide) id
    exact ⟨nofun, hvalid, hlock⟩
  have hsame : SameContent { s with tbl := T } { keysLoaded s u with tbl := T, phase := .tableVerified } :=
    ⟨rfl, h.contbase, h.params, h.hdr, rfl, h.ks⟩
  have hback : contentCipher cbcDec { keysLoaded s u with tbl := T, phase := .tableVerified } = .ok s.mem := by
    rw [contentCipher_congr (m := u.mem) hsame rfl]
    exact contentCipher_inverse (s := { s with tbl := T }) (fun _ _ _ => cbcEnc_length) (fun _ _ _ => cbcDec_length)
      (fun k iv _ => cbcDec_cbcEnc k iv) hm h.mem
  rw [exec_ldContent, gateAt_of_ready (p := .tableVerified) rfl hready, cipherContent_of_ok hback]

/-- `LD_VERIFY` finds the signature of every SIGNED block in the loaded table. -/
theorem exec_ldVerify_of_saved (h : Saved s T u) (hc : tCount T ≤ 256)
    (hfits : Fits s s.contbase.toNat (totalSize T))
    (hsigs : ∀ i < tCount T, isSigned T i = true →
      blockLenOk T i = true ∧ blockSig { s with tbl := T } i = dSig T i) :
    exec .ldVerify { keysLoaded s u with tbl := T, mem := s.mem, phase := .contentDecrypted } =
      .next { keysLoaded s u with tbl := T, mem := s.mem, phase := .verified } := by
  have hready : Ready vTbl true
      { keysLoaded s u with tbl := T, mem := s.mem, phase := .contentDecrypted } := by
    obtain ⟨-, hvalid, hlock⟩ := ready_mono (keysLoaded_ready h) (names' := vTbl) (by decide) id
    exact ⟨nofun, hvalid, hlock⟩
  have hcontbase : (keysLoaded s u).contbase = s.contbase := h.contbase
  have hparams : (keysLoaded s u).params = s.params := h.params
  have hks : (keysLoaded s u).ks = s.ks := h.ks
  have hsig (i : Nat) : blockSig { keysLoaded s u with tbl := T, mem := s.mem, phase := .contentDecrypted } i =
      blockSig { s with tbl := T } i := by
    simp only [blockSig, blockData, hcontbase, hks]
  have hverify : verifyBlocks { keysLoaded s u with tbl := T, mem := s.mem, phase := .contentDecrypted } =
      .next { keysLoaded s u with tbl := T, mem := s.mem, phase := .verified } := by
    refine verifyBlocks_of_ok ?_ fun i hi hs => ?_
    · simpa only [Fits, hcontbase, hparams] using hfits
    · rw [hsig i]
      exact hsigs i hi hs
  rw [exec_ldVerify, gateAt_of_phase (p := .contentDecrypted) rfl, afterNeed_afterCount_of_le hready hc, hverify]

end

/-! ## The signed table is such a table -/

section
variable {s : State}

/-- What `SIGN_BLOCKS` stores in the descriptors is what `LD_VERIFY` looks for. -/
theorem blockSig_signTable (ht : s.tbl.wf = true) (i : Nat) :
    blockSig { s with tbl := signTable s } i = blockSig s i := by
  simp only [blockSig, blockData, isEncrypted_signTable ht, blockOffset_signTable ht, dSize_signTable ht]

end

end Sys2Proof.Laws.SaveThenLoad

open Sys2Proof Sys2Proof.Machine Sys2Proof.Laws.SignatureEngine Sys2Proof.Laws.LoadSave
open Sys2Proof.Laws.RoundTrips Sys2Proof.Laws.SaveThenLoad

/-- Settles O54: signing changes only the signature fields, the save leaves the container in the registers, and each
gate in turn passes its checks on it and takes its part of the save back. -/
theorem savedContainerLoadsBack : Obligations.SavedContainerLoadsBack := by
  unfold Obligations.SavedContainerLoadsBack
  intro s hphase hr hm ht hc hfits hflags hcount hsize hblocks hsignable
  obtain ⟨hT, -⟩ := signTable_get ht
  have hsign : exec .signBlocks s = .next { s with tbl := signTable s } := by
    rw [exec_signBlocks, afterNeed_afterCount_of_le (ready_mono hr (by decide) id) hc,
      signEveryBlock_of_ok hfits (firstUnsignable_eq_none hsignable)]
  have hsigs : ∀ i < tCount (signTable s), isSigned (signTable s) i = true →
      blockLenOk (signTable s) i = true ∧ blockSig { s with tbl := signTable s } i = dSig (signTable s) i := by
    rw [tCount_signTable ht, isSigned_signTable ht, blockLenOk_signTable ht]
    exact fun i hi hs => ⟨hsignable i hi hs, by rw [blockSig_signTable ht, dSig_signTable ht hi hs]⟩
  have hencBlocks : ∀ j < tCount (signTable s), isEncrypted (signTable s) j = true →
      dSize (signTable s) j % 8 = 0 ∧ contentKn s.hdr ≠ 0 := by
    rw [tCount_signTable ht, isEncrypted_signTable ht, dSize_signTable ht]
    exact hblocks
  rw [← tCount_signTable ht] at hc
  rw [← totalSize_signTable ht] at hfits
  rw [← tableBytes_signTable ht] at hsize
  generalize signTable s = T at *
  obtain ⟨m, hmem⟩ := exists_contentCipher_ok (f := cbcEnc) (s := { s with tbl := T }) hc hfits hencBlocks
  have hsaved := saved_sealed hr hmem
  rw [execAll_cons hsign, save_of_plain hr hc hmem]
  generalize sealed { s with tbl := T, mem := m } = u at hsaved ⊢
  have hload : execAll [.ldHeader, .ldKeys, .ldTable, .ldContent, .ldVerify] u =
      .next { keysLoaded s u with tbl := T, mem := s.mem, phase := .verified } := by
    rw [execAll_cons (exec_ldHeader_of_saved hsaved hphase hflags hcount), execAll_cons (exec_ldKeys_of_saved hsaved),
      execAll_cons (exec_ldTable_of_saved hsaved hT hc hsize), execAll_cons (exec_ldContent_of_saved hsaved hm),
      execAll_cons (exec_ldVerify_of_saved hsaved hc hfits hsigs), execAll]
  exact ⟨_, hload, rfl, rfl, hsaved.hdr, rfl, rfl, rfl⟩

end

section
/-! What tampering does to the signatures that the gates check (spec/44_load_save_sequencer.md R204): one changed byte
is one changed unit of the message, a flipped header bit is one changed byte of the header, and a byte of MEM belongs to
one block. -/

namespace Sys2Proof.Laws.Tampering

open Sys2Proof Sys2Proof.Machine Sys2Proof.Laws.Cipher Sys2Proof.Laws.CipherEngine Sys2Proof.Laws.SignatureEngine
open Sys2Proof.Laws.LoadSave Sys2Proof.Laws.Sensitivity

/-! ## One changed byte (R179) -/

theorem unitChange_of_parts {a b c c' : Bytes} (ha : a.length % 8 = 0) (hb : b.length % 8 = 0) (hc : c.length = 8)
    (hc' : c'.length = 8) (hne : c ≠ c') : UnitChange (a ++ (c ++ b)) (a ++ (c' ++ b)) := by
  have hunit {v : Bytes} (hv : v.length = 8) : bytesOf 8 (ofBytes 64 v) = v := by
    rw [← hv, bytesOf_ofBytes v (by rw [hv])]
  have hspell {v : Bytes} (hv : v.length = 8) :
      a ++ (v ++ b) = bytesOfBlocks (blocksOf a ++ ofBytes 64 v :: blocksOf b) := by
    rw [bytesOfBlocks_append, bytesOfBlocks, hunit hv, bytesOfBlocks_blocksOf_of_mod ha,
      bytesOfBlocks_blocksOf_of_mod hb]
  exact ⟨_, _, _, _, fun h => hne (by rw [← hunit hc, h, hunit hc']), hspell hc, hspell hc'⟩

/-- In a message of whole units one changed byte changes one unit. -/
theorem unitChange_set {m : Bytes} {p : Nat} {b : BitVec 8} (h8 : m.length % 8 = 0) (hp : p < m.length)
    (hne : b ≠ m.getD p 0) : UnitChange m (m.set p b) := by
  obtain ⟨a, c, d, rfl, ha, hc⟩ : ∃ a c d : Bytes, m = a ++ (c ++ d) ∧ a.length = p / 8 * 8 ∧ c.length = 8 :=
    ⟨m.take (p / 8 * 8), (m.drop (p / 8 * 8)).take 8, (m.drop (p / 8 * 8)).drop 8,
      by rw [List.take_append_drop, List.take_append_drop], by simp; omega, by simp; omega⟩
  rw [List.length_append, List.length_append] at h8
  have hin : p - a.length < c.length := by omega
  rw [List.set_append_right _ _ (by omega), List.set_append_left _ _ hin]
  refine unitChange_of_parts (by omega) (by omega) hc (by rwa [List.length_set]) fun h => hne ?_
  have hbyte := congrArg (·.getD (p - a.length) 0) h
  simp only [List.getD_eq_getElem?_getD, List.getElem?_set_self hin, Option.getD_some] at hbyte
  rw [List.getD_eq_getElem?_getD, List.getElem?_append_right (by omega), List.getElem?_append_left hin, hbyte]

/-! ## A flipped header bit (R36, R37) -/

section
variable {h : BitVec 256} {n : Nat}

theorem getLsbD_flip (h : BitVec 256) {n : Nat} (hn : n < 256) (m : Nat) :
    (h ^^^ (1#256 <<< n)).getLsbD m = (h.getLsbD m ^^ decide (m = n)) := by
  rw [BitVec.getLsbD_xor, ← BitVec.twoPow_eq, BitVec.getLsbD_twoPow]
  simp [hn, eq_comm]

/-- A flip outside a byte does not change it. -/
theorem extractLsb'_flip {a : Nat} (hn : n < 256) (hout : n / 8 ≠ a) :
    (h ^^^ (1#256 <<< n)).extractLsb' (8 * a) 8 = h.extractLsb' (8 * a) 8 := by
  refine BitVec.eq_of_getLsbD_eq fun i hi => ?_
  rw [BitVec.getLsbD_extractLsb', BitVec.getLsbD_extractLsb', getLsbD_flip h hn,
    decide_eq_false (show 8 * a + i ≠ n by omega), Bool.xor_false]

/-- The header bytes after a flip: only byte `31 - n / 8` is another one. -/
theorem bytesOf_flip (hn : n < 256) : bytesOf 32 (h ^^^ (1#256 <<< n)) =
    (bytesOf 32 h).set (31 - n / 8) ((h ^^^ (1#256 <<< n)).extractLsb' (8 * (n / 8)) 8) := by
  refine List.ext_getElem (by simp) fun i hi _ => ?_
  rw [bytesOf_length] at hi
  rw [List.getElem_set]
  split
  case isTrue heq =>
    simp only [bytesOf, List.getElem_map, List.getElem_range]
    rw [show 32 - 1 - i = n / 8 by omega]
  case isFalse hne =>
    simp only [bytesOf, List.getElem_map, List.getElem_range]
    exact extractLsb'_flip hn (by omega)

theorem unitChange_flip (hn : n < 256) : UnitChange (bytesOf 32 h) (bytesOf 32 (h ^^^ (1#256 <<< n))) := by
  rw [bytesOf_flip hn]
  refine unitChange_set (by simp) (by simp; omega) fun heq => ?_
  have hsame : bytesOf 32 (h ^^^ (1#256 <<< n)) = bytesOf 32 h := by
    rw [bytesOf_flip hn, heq, List.getD_eq_getElem _ _ (by simp; omega), List.set_getElem_self]
  have hbit := getLsbD_flip h hn n
  rw [bytesOf_injective rfl hsame] at hbit
  simp at hbit

theorem hdrFlags_mod_two : hdrFlags h % 2 = 1 ↔ h.getLsbD 56 = true := by
  have hflags : hdrFlags h = (h.extractLsb' 56 8).toNat + 256 * ((h.extractLsb' 48 8).toNat + 256 * 0) := rfl
  have hbit : (h.extractLsb' 56 8).getLsbD 0 = h.getLsbD 56 := by rw [BitVec.getLsbD_extractLsb']; rfl
  rw [← hbit, ← BitVec.testBit_toNat, Nat.testBit_zero, decide_eq_true_iff, hflags]
  omega

theorem hdrBitCount_eq_zero : hdrBitCount h = 0 ↔ ∀ m, 32 ≤ m → m < 48 → h.getLsbD m = false := by
  have hcount : hdrBitCount h = (h.extractLsb' 40 8).toNat + 256 * ((h.extractLsb' 32 8).toNat + 256 * 0) := rfl
  have hbyte (a : Nat) : (h.extractLsb' a 8).toNat = 0 ↔ ∀ i < 8, h.getLsbD (a + i) = false := by
    rw [← BitVec.toNat_zero (w := 8), ← BitVec.toNat_eq]
    refine ⟨fun hz i hi => ?_, fun hz => BitVec.eq_of_getLsbD_eq fun i hi => ?_⟩
    · simpa [hi] using congrArg (·.getLsbD i) hz
    · simp [hi, hz i hi]
  have hzero : hdrBitCount h = 0 ↔ (h.extractLsb' 40 8).toNat = 0 ∧ (h.extractLsb' 32 8).toNat = 0 := by omega
  rw [hzero, hbyte, hbyte]
  refine ⟨fun ⟨hlow, hhigh⟩ m hlo hhi => ?_, fun hz => ⟨fun i hi => hz _ (by omega) (by omega),
    fun i hi => hz _ (by omega) (by omega)⟩⟩
  by_cases hm : m < 40
  · simpa [hlo] using hhigh (m - 32) (by omega)
  · simpa [Nat.le_of_not_lt hm] using hlow (m - 40) (by omega)

/-- A flip of flags bit 0 or of a bit of the bit count names a variant that the engine does not support. -/
theorem unsupported_flip (hf : hdrFlags h % 2 = 0) (hc : hdrBitCount h = 0) (hn : n = 56 ∨ (32 ≤ n ∧ n < 48)) :
    hdrFlags (h ^^^ (1#256 <<< n)) % 2 = 1 ∨ hdrBitCount (h ^^^ (1#256 <<< n)) ≠ 0 := by
  rcases hn with rfl | ⟨hlo, hhi⟩
  · left
    have hzero : h.getLsbD 56 = false := Bool.eq_false_iff.mpr fun hbit => by have := hdrFlags_mod_two.mpr hbit; omega
    rw [hdrFlags_mod_two, getLsbD_flip h (by decide), hzero]
    rfl
  · right
    intro hcount
    have hbit := hdrBitCount_eq_zero.mp hcount n hlo hhi
    rw [getLsbD_flip h (by omega), hdrBitCount_eq_zero.mp hc n hlo hhi, decide_eq_true rfl] at hbit
    exact absurd hbit (by decide)

/-- A flip of any other bit keeps the variant. -/
theorem supported_flip (hf : hdrFlags h % 2 = 0) (hc : hdrBitCount h = 0) (hn : n < 256) (hflag : n ≠ 56)
    (hout : ¬ (32 ≤ n ∧ n < 48)) :
    hdrFlags (h ^^^ (1#256 <<< n)) % 2 = 0 ∧ hdrBitCount (h ^^^ (1#256 <<< n)) = 0 := by
  have hsame (m : Nat) (hm : m ≠ n) : (h ^^^ (1#256 <<< n)).getLsbD m = h.getLsbD m := by
    rw [getLsbD_flip h hn, decide_eq_false hm, Bool.xor_false]
  constructor
  · have hflags : hdrFlags (h ^^^ (1#256 <<< n)) % 2 = 1 ↔ hdrFlags h % 2 = 1 := by
      rw [hdrFlags_mod_two, hdrFlags_mod_two, hsame 56 (Ne.symm hflag)]
    omega
  · refine hdrBitCount_eq_zero.mpr fun m hlo hhi => ?_
    rw [hsame m (by omega), hdrBitCount_eq_zero.mp hc m hlo hhi]

end

/-! ## A changed byte of MEM -/

section
variable {s : State} {i x : Nat} {v : BitVec 8}

/-- A read from at or below the changed byte is the old read with that byte replaced, if it lies in the range. -/
theorem read_set_of_le {m : Memory} {a n : Nat} (hm : m.wf = true) (hlo : a ≤ x) :
    (m.set x v).read a n = (m.read a n).set (x - a) v := by
  refine List.ext_getElem (by simp) fun k hk _ => ?_
  rw [List.getElem_set]
  simp only [Memory.read, List.getElem_map, List.getElem_range, Memory.get_set hm]
  exact if_congr (by omega) rfl rfl

theorem read_set_outside {m : Memory} {a n : Nat} (hm : m.wf = true) (hout : x < a ∨ a + n ≤ x) :
    (m.set x v).read a n = m.read a n :=
  Memory.read_congr fun k hk => by rw [Memory.get_set hm, if_neg (by omega)]

/-- The blocks before the one that holds the changed byte keep their signatures. -/
theorem blockSig_set_outside (hm : s.mem.wf = true) (hlo : s.contbase.toNat + blockOffset s.tbl i ≤ x) {j : Nat}
    (hj : j < i) : blockSig { s with mem := s.mem.set x v } j = blockSig s j := by
  have hbefore := blockOffset_add_size_le s.tbl hj
  have hdata : blockData { s with mem := s.mem.set x v } j = blockData s j :=
    read_set_outside (a := s.contbase.toNat + blockOffset s.tbl j) (n := dSize s.tbl j) hm (by omega)
  rw [blockSig, blockSig, hdata]

/-- The block that holds the changed byte has another signature, whichever scheme it is. -/
theorem blockSig_set_inside (hm : s.mem.wf = true) (h8 : dSize s.tbl i % 8 = 0)
    (hlo : s.contbase.toNat + blockOffset s.tbl i ≤ x)
    (hhi : x < s.contbase.toNat + blockOffset s.tbl i + dSize s.tbl i) (hv : v ≠ s.mem.get x) :
    blockSig { s with mem := s.mem.set x v } i ≠ blockSig s i := by
  have hdata : blockData { s with mem := s.mem.set x v } i =
      (blockData s i).set (x - (s.contbase.toNat + blockOffset s.tbl i)) v := read_set_of_le hm hlo
  have hlength : (blockData s i).length = dSize s.tbl i := Memory.read_length
  have hchange : UnitChange (blockData s i) (blockData { s with mem := s.mem.set x v } i) := by
    rw [hdata]
    refine unitChange_set (by rw [hlength, h8]) (by omega) ?_
    rw [blockData, Memory.read_getD (by omega), Nat.add_sub_cancel' hlo]
    exact hv
  rw [blockSig, blockSig]
  split
  case isTrue => exact (foldSig_ne_of_unitChange s.ks hchange).symm
  case isFalse => exact (mac3_ne_of_unitChange s.ks hchange).symm

end

/-! ## The gates -/

section
variable {s : State}

theorem ldHeader_raises_variant (hp : s.phase = .unloaded) (hr : Ready (vHdr ||| vHsig) true s)
    (hv : hdrFlags s.hdr % 2 = 1 ∨ hdrBitCount s.hdr ≠ 0) : ∃ w, Raises .ldHeader s .unsupportedVariant w := by
  refine ⟨BitVec.ofNat 32 (hdrFlags s.hdr + 65536 * hdrBitCount s.hdr), ?_⟩
  rw [Raises, exec_ldHeader, gateAt_of_ready hp hr, checkHeader_of_variant hv]

theorem ldHeader_raises_signature (hp : s.phase = .unloaded) (hr : Ready (vHdr ||| vHsig) true s)
    (hf : hdrFlags s.hdr % 2 = 0) (hc : hdrBitCount s.hdr = 0) (hsig : mac3 s.ks (bytesOf 32 s.hdr) ≠ s.hsig) :
    Raises .ldHeader s .invalidHeaderSignature 0 := by
  rw [Raises, exec_ldHeader, gateAt_of_ready hp hr, checkHeader_of_signature hf hc hsig]

/-- `LD_VERIFY` stops at a SIGNED block with another signature when every SIGNED block before it passes. -/
theorem ldVerify_raises_signature {i : Nat} (hp : s.phase = .contentDecrypted) (hr : Ready vTbl true s)
    (hc : tCount s.tbl ≤ 256) (hfits : Fits s s.contbase.toNat (totalSize s.tbl)) (hi : i < tCount s.tbl)
    (hs : isSigned s.tbl i = true) (hlen : blockLenOk s.tbl i = true) (hsig : blockSig s i ≠ dSig s.tbl i)
    (hfirst : ∀ j < i, isSigned s.tbl j = true → blockLenOk s.tbl j = true ∧ blockSig s j = dSig s.tbl j) :
    Raises .ldVerify s .invalidContentSignature (BitVec.ofNat 32 i) := by
  rw [Raises, exec_ldVerify, gateAt_of_phase hp, afterNeed_afterCount_of_le hr hc,
    verifyBlocks_of_problem hfits hi (blockProblem_of_signature hs hlen hsig) hfirst]

end

end Sys2Proof.Laws.Tampering

open Sys2Proof Sys2Proof.Machine Sys2Proof.Laws.SignatureEngine Sys2Proof.Laws.LoadSave
open Sys2Proof.Laws.Sensitivity Sys2Proof.Laws.Tampering

/-- Settles O55: a flipped bit of the header is in a field that the variant check reads, or changes one unit of the
signed bytes; and a changed byte of a block changes one unit of what its signature covers, and no earlier block. -/
theorem tamperingIsCaughtAtTheGates : Obligations.TamperingIsCaughtAtTheGates := by
  unfold Obligations.TamperingIsCaughtAtTheGates
  refine ⟨fun s hp hr hf hc hsig => ⟨fun n _ hn => ?flippedVariant, fun n hn hflag hout => ?flippedOther,
    fun v hv => ?changedSignature⟩, 
    fun s i x v hp hr hm hc hfits hsigned hi hs hlo hhi hv _ => ?changedBlock⟩
  case flippedVariant =>
    exact ldHeader_raises_variant (s := { s with hdr := s.hdr ^^^ (1#256 <<< n) }) hp hr (unsupported_flip hf hc hn)
  case flippedOther =>
    obtain ⟨hf', hc'⟩ := supported_flip hf hc hn hflag hout
    refine ldHeader_raises_signature (s := { s with hdr := s.hdr ^^^ (1#256 <<< n) }) hp hr hf' hc' fun heq => ?_
    exact mac3_ne_of_unitChange s.ks (unitChange_flip hn) (hsig.trans heq.symm)
  case changedSignature =>
    exact ldHeader_raises_signature (s := { s with hsig := v }) hp hr hf hc fun heq => hv (heq.symm.trans hsig)
  case changedBlock =>
    obtain ⟨hlen, hblock⟩ := hsigned i hi hs
    have h8 := (blockLenOk_eq_true.mp hlen).1
    refine ldVerify_raises_signature (s := { s with mem := s.mem.set x v }) hp hr hc hfits hi hs hlen ?_ ?_
    · rw [← hblock]
      exact blockSig_set_inside hm h8 hlo hhi hv
    · intro j hj hsj
      rw [blockSig_set_outside hm hlo hj]
      exact hsigned j (hj.trans hi) hsj

end
